-- ==== Sys2Proof/Word.lean ====
section
/-! DEFINITION. The word types of HUFCORE: registers are 32 bits wide (10 R33), buffers hold bytes (20 R80, R81). -/

namespace Sys2Proof

/-- One byte of a buffer, a symbol, or a container field (30 R115). -/
abbrev Byte := BitVec 8

/-- One register, one command word, one bus value (10 R33, 30 R110). -/
abbrev Word := BitVec 32

/-- A finite sequence of bits in order of transmission, first bit first (00 R13). -/
abbrev Bits := List Bool

/-- `ceil8 n`: the number of bytes that hold `n` bits (00 R11). -/
def ceil8 (n : Nat) : Nat := (n + 7) / 8

end Sys2Proof
end

