-- ==== Sys2Proof/Config.lean ====
section
/-! DEFINITION. What an instance of HUFCORE fixes (00 R9), and the free values of the spec (10 R71, 70 R302, 93). -/

namespace Sys2Proof

/-- The implementation parameters (00 R9). They stand in `State.params`, and no step changes them (70 R313). -/
structure Params where
  /-- BASE: the bus address of offset 0 of the window. -/
  base : Nat
  /-- IN_CAP: the capacity of IN_BUF in bytes. -/
  inCap : Nat
  /-- OUT_CAP: the capacity of OUT_BUF in bytes. -/
  outCap : Nat
  deriving DecidableEq, Repr

/-- DESIGN CHOICE (log 2): the suggested capacities (00 R9), the window at bus address 0. -/
def Params.suggested : Params := ⟨0, 2 ^ 20, 2 ^ 20⟩

/-- A free value (log 3): the byte that stands at a window offset of EXT, IN_BUF or OUT_BUF after the reset numbered
`epoch`, until something writes it (10 R71). -/
opaque Config.powerUpByte (epoch offset : Nat) : Byte

/-- A free value (log 4, log 5): the word whose bits stand in for the unspecified bits of the host read numbered `draw`
(70 R290, R302; 93). -/
opaque Config.freeWord (draw : Nat) : Word

end Sys2Proof
end

