-- ==== Sys2Proof/Syntax.lean ====
section
/-! DEFINITION. The commands of spec/opcode_table.json, and the events at HUFCORE's port: host accesses (20 R84),
the reset input (70 R290) and the turns of the CORE (00 R8). -/

namespace Sys2Proof

/-- The thirteen commands (30 R111). A command has no operand field (30 R110, R115). -/
inductive Instr where
  | nop
  | clear
  | count
  | build
  | gencode
  | emitExt
  | emitTable
  | pack
  | parseExt
  | parseTable
  | unpack
  | compress
  | decompress
  deriving DecidableEq, Repr

/-- The width of a host access: 1, 2 or 4 bytes (20 R84). -/
inductive Width where
  | one
  | two
  | four
  deriving DecidableEq, Repr

/-- The number of bytes of a host access. -/
def Width.bytes : Width → Nat
  | .one => 1
  | .two => 2
  | .four => 4

/-- One host access, by bus address: `MemRead` or `MemWrite` (20 R84).
Of a written value only the low `8 * width.bytes` bits count (20 R89). -/
inductive Access where
  | read (addr : Nat) (width : Width)
  | write (addr : Nat) (width : Width) (value : Word)
  deriving DecidableEq, Repr

/-- The bus address of an access. -/
def Access.addr : Access → Nat
  | .read a _ => a
  | .write a _ _ => a

/-- The width of an access. -/
def Access.width : Access → Width
  | .read _ n => n
  | .write _ n _ => n

/-- What comes next at HUFCORE's port: a host access, the reset input asserted (70 R290), or the CORE's own turn,
in which it ends the running command or the reset sequence. -/
inductive Event where
  | access (a : Access)
  | reset
  | core
  deriving DecidableEq, Repr

/-- The control and status registers of 10 R33, by name. -/
inductive Reg where
  | id | cmd | status | irqEn | inLen | outLen | rdPtr | extLen | nsym | root | nnodes | maxLen | sigBits
  | payBits | payOff | errInfo | inCapR | outCapR
  deriving DecidableEq, Repr

/-- The regions of the host window (20 R84). -/
inductive Region where
  | reg | freq | codeLen | order | ext | node | codeBits | inBuf | outBuf | reserved
  deriving DecidableEq, Repr

end Sys2Proof
end

