-- ==== Sys2Proof/WellFormed.lean ====
section
/-! DEFINITION. What makes an instruction and an instance's parameters well formed. -/

namespace Sys2Proof

/-- A command has no immediate, no register number and no other field (30 R110, R115), so each constructor of `Instr`
is well formed as it stands. -/
def Instr.wellFormed (_i : Instr) : Bool := true

/-- BASE is a multiple of 2^26 (00 R9). -/
def Params.baseAligned (p : Params) : Bool := p.base % 2 ^ 26 == 0

/-- 1 ≤ IN_CAP ≤ 2^24 (00 R9). -/
def Params.inCapInRange (p : Params) : Bool := decide (1 ≤ p.inCap ∧ p.inCap ≤ 2 ^ 24)

/-- 1 ≤ OUT_CAP ≤ 2^24 (00 R9). -/
def Params.outCapInRange (p : Params) : Bool := decide (1 ≤ p.outCap ∧ p.outCap ≤ 2 ^ 24)

/-- The constraints of 00 R9 on an instance's parameters. -/
def Params.wellFormed (p : Params) : Bool := p.baseAligned && p.inCapInRange && p.outCapInRange

end Sys2Proof
end

