-- ==== Sys2Proof/Decode.lean ====
section
/-! DEFINITION. Command words: the decoder of 30 R110–R113, total on every 32-bit word, and the encoder. -/

namespace Sys2Proof

/-- Why a word is no command (30 R112). -/
inductive DecodeError where
  /-- RSVD, bits 31:8, is not 0. -/
  | rsvdNotZero (rsvd : BitVec 24)
  /-- RSVD is 0 and OPCODE, bits 7:0, is not in the map of 30 R111. -/
  | unassignedOpcode (opcode : Byte)
  deriving DecidableEq, Repr

/-- OPCODE: bits 7:0 of a command word (30 R110). -/
def opcodeField (w : Word) : Byte := w.extractLsb' 0 8

/-- RSVD: bits 31:8 of a command word (30 R110). -/
def rsvdField (w : Word) : BitVec 24 := w.extractLsb' 8 24

/-- The opcode map (30 R111). -/
def opcodeMap : List (Byte × Instr) :=
  [(0x00, .nop), (0x01, .clear),
   (0x10, .count), (0x11, .build), (0x12, .gencode),
   (0x20, .emitExt), (0x21, .emitTable), (0x22, .pack),
   (0x30, .parseExt), (0x31, .parseTable), (0x32, .unpack),
   (0x40, .compress), (0x41, .decompress)]

/-- The decoder of command words (30 R111, R112, R113). -/
def decode (w : Word) : Except DecodeError Instr :=
  if rsvdField w ≠ 0 then .error (.rsvdNotZero (rsvdField w))
  else
    match opcodeMap.find? (fun row => row.1 == opcodeField w) with
    | some row => .ok row.2
    | none => .error (.unassignedOpcode (opcodeField w))

/-- The command word of a command, column "word" of 30 R111. -/
def encode : Instr → Word
  | .nop => 0x00000000
  | .clear => 0x00000001
  | .count => 0x00000010
  | .build => 0x00000011
  | .gencode => 0x00000012
  | .emitExt => 0x00000020
  | .emitTable => 0x00000021
  | .pack => 0x00000022
  | .parseExt => 0x00000030
  | .parseTable => 0x00000031
  | .unpack => 0x00000032
  | .compress => 0x00000040
  | .decompress => 0x00000041

/-- The word the decoder sees when the low `nbits` bits of the instruction are those of `w` and the rest are 0.
A command is one whole 32-bit word of a 4-byte host write (30 R110, 20 R89). -/
def tableWord (nbits w : Nat) : Word := BitVec.ofNat 32 (w % 2 ^ nbits)

/-- What the decoder reads from an instruction whose bits are `w`. -/
def decodeTableWord (nbits w : Nat) : Option Instr :=
  match decode (tableWord nbits w) with
  | .ok i => some i
  | .error _ => none

end Sys2Proof
end

