-- ==== Sys2Proof/Machine/State.lean ====
section
/-! DEFINITION. The state of HUFCORE (10 R30), as plain data, and its value right after reset (10 R70). -/

namespace Sys2Proof.Machine

/-- One entry of the node store (10 R59). -/
structure Node where
  valid : Bool
  leaf : Bool
  sym : Byte
  weight : Word
  left : BitVec 9
  right : BitVec 9
  deriving DecidableEq, Repr

/-- An unused entry: all fields 0 (10 R59). -/
def Node.empty : Node := ⟨false, false, 0, 0, 0, 0⟩

/-- What the CORE is doing. STATUS.BUSY is 1 exactly outside `idle` (10 R37). -/
inductive Phase where
  /-- No command runs and no reset sequence (60 R282). -/
  | idle
  /-- The accepted command word runs (70 R300); the word is hidden state (10 R68). -/
  | running (word : Word)
  /-- The reset sequence lasts (70 R290). -/
  | resetting
  deriving DecidableEq, Repr

/-- What the last host access got back from the port. -/
inductive Response where
  /-- There has been no access yet. -/
  | none
  /-- A read's data, zero-extended to 32 bits. -/
  | data (value : Word)
  /-- A write was served: done, ignored, or dropped with OVERRUN. -/
  | written
  /-- The access failed with a bus error: no data, no state change (20 R90). -/
  | busError
  deriving DecidableEq, Repr

/-- The error kinds of a failing command: the rows of 60 R263, but for NONE. -/
inductive ErrKind where
  | illegalCommand
  | inLenRange
  | rdPtrRange
  | noTree
  | noTable
  | emptyAlphabet
  | weightOverflow
  | unknownSymbol
  | outOverflow
  | extTruncated
  | tableTruncated
  | codeLenZero
  | dupSymbol
  | notPrefixFree
  | payloadMissing
  | badSigbits
  | sigbitsNoData
  | badCodeword
  | trailingBits
  deriving DecidableEq, Repr

/-- The state of HUFCORE. -/
structure State where
  /-- BASE, IN_CAP, OUT_CAP (00 R9); IN_CAP_R and OUT_CAP_R read them (10 R57). -/
  params : Params
  /-- STATUS.BUSY and the hidden command word (10 R37, R68). -/
  phase : Phase
  /-- STATUS.DONE (10 R38). -/
  done : Bool
  /-- STATUS.ERROR (10 R39). -/
  error : Bool
  /-- STATUS.OVERRUN (10 R40). -/
  overrun : Bool
  /-- STATUS.ERR_CODE (10 R41). -/
  errCode : BitVec 4
  /-- STATUS.ERR_SUB (10 R41). -/
  errSub : BitVec 4
  /-- STATUS.TREE_VALID (10 R42). -/
  treeValid : Bool
  /-- STATUS.TABLE_VALID (10 R43). -/
  tableValid : Bool
  /-- IRQ_EN: bit 0 DONE_IE, bit 1 ERR_IE, bit 2 OVR_IE (10 R44). -/
  irqEn : BitVec 3
  /-- IN_LEN (10 R45). -/
  inLen : Word
  /-- OUT_LEN (10 R46). -/
  outLen : Word
  /-- RD_PTR (10 R47). -/
  rdPtr : Word
  /-- EXT_LEN (10 R48). -/
  extLen : Byte
  /-- NSYM (10 R49). -/
  nsym : BitVec 9
  /-- ROOT (10 R50). -/
  root : BitVec 9
  /-- NNODES (10 R51). -/
  nnodes : BitVec 10
  /-- MAXLEN (10 R52). -/
  maxLen : Byte
  /-- SIGBITS (10 R53). -/
  sigBits : BitVec 4
  /-- PAY_BITS (10 R54). -/
  payBits : Word
  /-- PAY_OFF (10 R55). -/
  payOff : Word
  /-- ERR_INFO (10 R56). -/
  errInfo : Word
  /-- FREQ[0..255] (10 R58). -/
  freq : Vector Word 256
  /-- NODE[0..510] (10 R59). -/
  nodes : Vector Node 511
  /-- CODE_LEN[0..255] (10 R62). -/
  codeLen : Vector Byte 256
  /-- CODE_BITS[0..255], byte 0 of an entry its most significant byte (10 R63). -/
  codeBits : Vector (BitVec 256) 256
  /-- ORDER[0..255] (10 R64). -/
  order : Vector Byte 256
  /-- The written bytes of EXT, IN_BUF and OUT_BUF, by window offset (10 R66, 20 R80, R81, R84). -/
  mem : List Host.Cell
  /-- The model's own: the events still to come at the port, in the order they arrive (20 R94). -/
  agenda : List Event
  /-- The model's own: what the last host access got back. -/
  response : Response
  /-- The model's own: how many host reads have been served; numbers the free values of reads. -/
  draws : Nat
  /-- The model's own: how many resets have happened; numbers the free contents of the buffers. -/
  epoch : Nat
  deriving DecidableEq, Repr

/-- Why a step stops with a fault. -/
inductive Fault where
  /-- Raised by a step whose next event is a host access outside the window at BASE (20 R83, R84): it is no access of
  HUFCORE's, and the spec says nothing of it. Safe (log 7). -/
  | outsideWindow (addr : Nat)
  deriving DecidableEq, Repr

/-- Why a step is refused. -/
inductive Refusal where
  /-- Raised by an arm of `exec` whose command has no meaning yet; no arm does. Safe. -/
  | notModelled (mnemonic : String)
  deriving DecidableEq, Repr

/-- The values after the reset sequence (10 R70), for an instance with parameters `p`. -/
def State.afterReset (p : Params) : State where
  params := p
  phase := .idle
  done := false
  error := false
  overrun := false
  errCode := 0
  errSub := 0
  treeValid := false
  tableValid := false
  irqEn := 0
  inLen := 0
  outLen := 0
  rdPtr := 0
  extLen := 0
  nsym := 0
  root := 0
  nnodes := 0
  maxLen := 0
  sigBits := 0
  payBits := 0
  payOff := 0
  errInfo := 0
  freq := Vector.replicate 256 0
  nodes := Vector.replicate 511 Node.empty
  codeLen := Vector.replicate 256 0
  codeBits := Vector.replicate 256 0
  order := Vector.replicate 256 0
  mem := []
  agenda := []
  response := .none
  draws := 0
  epoch := 0

/-- The machine right after reset (10 R70), with the suggested parameters (log 2) and nothing at its port (log 1). -/
def State.reset : State := State.afterReset Params.suggested

end Sys2Proof.Machine
end

