-- ==== Sys2Proof/Machine/Flags.lean ====
section
/-! DEFINITION. The flags of HUFCORE: STATUS (10 R36–R43), its W1C bits, the error codes (60 R263) and IRQ (60 R270). -/

namespace Sys2Proof.Machine

/-- STATUS.BUSY (10 R37). -/
def State.busy (s : State) : Bool :=
  match s.phase with
  | .idle => false
  | .running _ => true
  | .resetting => true

/-- Column ERR_CODE of 60 R263. -/
def ErrKind.code : ErrKind → BitVec 4
  | .illegalCommand => 1
  | .inLenRange => 2
  | .rdPtrRange => 2
  | .noTree => 3
  | .noTable => 3
  | .emptyAlphabet => 4
  | .weightOverflow => 5
  | .unknownSymbol => 6
  | .outOverflow => 7
  | .extTruncated => 8
  | .tableTruncated => 8
  | .codeLenZero => 8
  | .dupSymbol => 8
  | .notPrefixFree => 8
  | .payloadMissing => 8
  | .badSigbits => 8
  | .sigbitsNoData => 8
  | .badCodeword => 8
  | .trailingBits => 8

/-- Column ERR_SUB of 60 R263. -/
def ErrKind.sub : ErrKind → BitVec 4
  | .illegalCommand => 0
  | .inLenRange => 1
  | .rdPtrRange => 2
  | .noTree => 1
  | .noTable => 2
  | .emptyAlphabet => 0
  | .weightOverflow => 0
  | .unknownSymbol => 0
  | .outOverflow => 0
  | .extTruncated => 1
  | .tableTruncated => 2
  | .codeLenZero => 3
  | .dupSymbol => 4
  | .notPrefixFree => 5
  | .payloadMissing => 6
  | .badSigbits => 7
  | .sigbitsNoData => 8
  | .badCodeword => 9
  | .trailingBits => 10

/-- A one-bit field as a bit vector. -/
def bit (b : Bool) : BitVec 1 := BitVec.ofBool b

/-- The STATUS word from its fields, bits 31:18 and 15:12 zero (10 R36). -/
def packStatus (tableValid treeValid : Bool) (errSub errCode : BitVec 4) (overrun error done busy : Bool) : Word :=
  0#14 ++ bit tableValid ++ bit treeValid ++ 0#4 ++ errSub ++ errCode ++ bit overrun ++ bit error ++ bit done ++ bit busy

/-- STATUS as the host reads it while BUSY is 0 (10 R36). -/
def State.statusWord (s : State) : Word :=
  packStatus s.tableValid s.treeValid s.errSub s.errCode s.overrun s.error s.done s.busy

/-- STATUS as the host reads it while a command runs: TREE_VALID and TABLE_VALID are unspecified, here bits 16 and 17
of the read's free word (70 R302, log 4). -/
def State.statusWordRunning (s : State) (free : Word) : Word :=
  packStatus (free.getLsbD 17) (free.getLsbD 16) 0 0 s.overrun false false true

/-- STATUS as the host reads it during the reset sequence: only BUSY is specified (70 R290, log 4). -/
def statusWordResetting (free : Word) : Word := free ||| 1

/-- A host write to STATUS: a 1 in bit 1, 2 or 3 clears DONE, ERROR or OVERRUN, a 0 leaves it, and no other bit is
written (10 R36, R38–R40). It is also how the host acknowledges the end of a command (60 R274). -/
def State.writeStatus (s : State) (v : Word) : State :=
  { s with
    done := s.done && !v.getLsbD 1
    error := s.error && !v.getLsbD 2
    overrun := s.overrun && !v.getLsbD 3 }

/-- The interrupt output (60 R270). -/
def State.irq (s : State) : Bool :=
  (s.done && s.irqEn.getLsbD 0) || (s.error && s.irqEn.getLsbD 1) || (s.overrun && s.irqEn.getLsbD 2)

end Sys2Proof.Machine
end

