-- ==== Sys2Proof/Machine/Ops.lean ====
section
/-! DEFINITION. The named operations over memory and registers, and how a command starts and ends
(60 R260–R262): success, and taking an error. -/

namespace Sys2Proof.Machine

/-! ### The written bytes of the buffers: a list of cells in canonical form -/

/-- The byte written at window offset `a`, none where nothing has been written since reset. -/
def Memory.read? : List Host.Cell → Nat → Option Byte
  | [], _ => none
  | (b, w) :: rest, a => if b = a then some w else Memory.read? rest a

/-- Memory with `v` at `a`: the cell is replaced, or put in its place in the rising order. -/
def Memory.write : List Host.Cell → Nat → Byte → List Host.Cell
  | [], a, v => [(a, v)]
  | (b, w) :: rest, a, v =>
    if a < b then (a, v) :: (b, w) :: rest
    else if a = b then (a, v) :: rest
    else (b, w) :: Memory.write rest a v

/-- Memory with `vs` at `a`, `a + 1`, … (20 R87: in increasing order). -/
def Memory.writeList : List Host.Cell → Nat → List Byte → List Host.Cell
  | m, _, [] => m
  | m, a, v :: vs => Memory.writeList (Memory.write m a v) (a + 1) vs

/-- The canonical form: offsets strictly rising. An unlisted offset holds no written value (`none`), so no entry can
equal what an unlisted offset reads as. -/
def Memory.wf (m : List Host.Cell) : Bool := decide ((m.map Prod.fst).Pairwise (· < ·))

/-! ### Where the byte buffers stand in the window (20 R84) -/

/-- EXT[i] stands at 0xA00 + i. -/
def extBase : Nat := 0xA00

/-- IN_BUF[i] stands at 0x1000000 + i. -/
def inBase : Nat := 0x1000000

/-- OUT_BUF[i] stands at 0x2000000 + i. -/
def outBase : Nat := 0x2000000

/-- The byte a buffer holds at a window offset: the written one, or the free one of the last reset (10 R71, log 3). -/
def State.ramByte (s : State) (offset : Nat) : Byte :=
  (Memory.read? s.mem offset).getD (Config.powerUpByte s.epoch offset)

/-- IN[i], the core read of IN_BUF (20 R86). -/
def State.inByte (s : State) (i : Nat) : Byte := s.ramByte (inBase + i)

/-- EXT[i] (10 R66). -/
def State.extByte (s : State) (i : Nat) : Byte := s.ramByte (extBase + i)

/-- OUT_BUF[i] (20 R81). -/
def State.outByte (s : State) (i : Nat) : Byte := s.ramByte (outBase + i)

/-- IN[p], …, IN[p + n - 1]. -/
def State.inBytes (s : State) (p n : Nat) : List Byte := (List.range n).map fun j => s.inByte (p + j)

/-- EXT[0], …, EXT[n - 1]. -/
def State.extBytes (s : State) (n : Nat) : List Byte := (List.range n).map s.extByte

/-- Store bytes from a window offset up. -/
def State.store (s : State) (offset : Nat) (vs : List Byte) : State :=
  { s with mem := Memory.writeList s.mem offset vs }

/-- `emit` of each byte in turn: OUT[OUT_LEN] ← v and OUT_LEN ← OUT_LEN + 1 (00 R15). -/
def State.emit (s : State) (vs : List Byte) : State :=
  { s with
    mem := Memory.writeList s.mem (outBase + s.outLen.toNat) vs
    outLen := BitVec.ofNat 32 (s.outLen.toNat + vs.length) }

/-! ### The tables -/

/-- The vector whose entry i is `f i`. -/
def tabulate {α : Type} (n : Nat) (f : Nat → α) : Vector α n := ⟨((List.range n).map f).toArray, by simp⟩

/-- FREQ[b] (10 R58). -/
def State.freqOf (s : State) (b : Byte) : Word := s.freq[b.toNat]'b.isLt

/-- NODE[n] of a node store; an index past 510 names no entry and reads as an unused one (10 R59, R60). -/
def nodeAt (nodes : Vector Node 511) (n : Nat) : Node := nodes.getD n Node.empty

/-- CODE_LEN[b] (10 R62). -/
def State.codeLenOf (s : State) (b : Byte) : Byte := s.codeLen[b.toNat]'b.isLt

/-- CODE_BITS[b] (10 R63). -/
def State.codeBitsOf (s : State) (b : Byte) : BitVec 256 := s.codeBits[b.toNat]'b.isLt

/-- ORDER[i] (10 R64). -/
def State.orderAt (s : State) (i : Nat) : Byte := s.order.getD i 0

/-! ### How a command starts and ends -/

/-- The start of every command: DONE, ERROR, ERR_CODE, ERR_SUB, ERR_INFO ← 0, OVERRUN kept (60 R260). -/
def State.start (s : State) : State :=
  { s with done := false, error := false, errCode := 0, errSub := 0, errInfo := 0 }

/-- Acceptance of a word written to CMD while BUSY is 0 (60 R260). -/
def State.accept (s : State) (w : Word) : State := { s.start with phase := .running w }

/-- `done()`: DONE ← 1, BUSY ← 0 (60 R261). -/
def State.finish (s : State) : State := { s with done := true, phase := .idle }

/-- Taking an error, `raise ERR(code, sub, info)` (60 R262): the one place where a failure is recorded. There is no
saved program counter, no mode and no handler address (60 R273); the acknowledgement is `State.writeStatus` or the
next acceptance (60 R274). -/
def State.raiseErr (s : State) (e : ErrKind) (info : Word) : State :=
  { s with
    errCode := e.code
    errSub := e.sub
    errInfo := info
    error := true
    done := true
    phase := .idle }

/-- How the body of a command ends: at `done()` or at a `raise`, with the state its writes so far have made. -/
inductive Ran where
  | ok (s : State)
  | raised (e : ErrKind) (info : Word) (s : State)
  deriving DecidableEq, Repr

/-- Run the next step of a whole-run command, unless an earlier one failed (42 R230). -/
def Ran.andThen (r : Ran) (f : State → Ran) : Ran :=
  match r with
  | .ok s => f s
  | .raised e info s => .raised e info s

/-- A failed whole-run command ends with OUT_LEN ← 0 (42 R233). -/
def Ran.dropOutput (r : Ran) : Ran :=
  match r with
  | .ok s => .ok s
  | .raised e info s => .raised e info { s with outLen := 0 }

/-- The state a command leaves: success or a taken error (60 R261, R262). -/
def Ran.complete (r : Ran) : State :=
  match r with
  | .ok s => s.finish
  | .raised e info s => s.raiseErr e info

/-- The template of every command: start, body, end (40 R150), as one step (70 R301). -/
def runCommand (body : State → Ran) (s : State) : Host.Outcome State Fault Refusal :=
  .next (body s.start).complete

/-! ### The checks a command makes first (60 R264, R265) and the capacity check (60 R268) -/

/-- PARAM / IN_LEN_RANGE when IN_LEN > IN_CAP. -/
def State.checkInLen (s : State) (go : State → Ran) : Ran :=
  if s.inLen.toNat > s.params.inCap then .raised .inLenRange s.inLen s else go s

/-- PARAM / RD_PTR_RANGE when RD_PTR > IN_LEN. -/
def State.checkRdPtr (s : State) (go : State → Ran) : Ran :=
  if s.rdPtr.toNat > s.inLen.toNat then .raised .rdPtrRange s.rdPtr s else go s

/-- SEQUENCE / NO_TREE when TREE_VALID = 0. -/
def State.checkTree (s : State) (go : State → Ran) : Ran :=
  if s.treeValid then go s else .raised .noTree 0 s

/-- SEQUENCE / NO_TABLE when TABLE_VALID = 0. -/
def State.checkTable (s : State) (go : State → Ran) : Ran :=
  if s.tableValid then go s else .raised .noTable 0 s

/-- OUT_OVERFLOW, with the OUT_LEN the output would need, when `size` more bytes do not fit. -/
def State.checkRoom (s : State) (size : Nat) (go : State → Ran) : Ran :=
  if s.outLen.toNat + size > s.params.outCap then
    .raised .outOverflow (BitVec.ofNat 32 (s.outLen.toNat + size)) s
  else go s

end Sys2Proof.Machine
end

