-- ==== Sys2Proof/Machine/Operands.lean ====
section
/-! DEFINITION. Bit strings and their packing (00 R13, R14), and the codes of the code table (10 R63). -/

namespace Sys2Proof.Machine

/-- The number whose binary digits, most significant first, are the bits. -/
def bitsVal (c : Bits) : Nat := c.foldl (fun acc b => 2 * acc + b.toNat) 0

/-- Bits 8j, …, 8j + 7 of a bit string, with 0 past its end. -/
def octet (c : Bits) (j : Nat) : Bits := (List.range 8).map fun k => c.getD (8 * j + k) false

/-- `packMSB` (00 R14): byte j has bit (7 - k) equal to position 8j + k, and 0 past the end. -/
def packMSB (c : Bits) : List Byte :=
  (List.range (ceil8 c.length)).map fun j => BitVec.ofNat 8 (bitsVal (octet c j))

/-- The bits of one byte, bit 7 first (00 R14). -/
def byteBits (b : Byte) : Bits := (List.range 8).map b.getMsbD

/-- `bitsMSB` (00 R14). -/
def bitsMSB (bs : List Byte) : Bits := bs.flatMap byteBits

/-- `packMSB` of a code followed by zero bytes up to 32 bytes (10 R63): the first code bit is the first of 256. -/
def codeWord (c : Bits) : BitVec 256 := BitVec.ofNat 256 (bitsVal c * 2 ^ (256 - c.length))

/-- Byte j, 0 to 31, of a CODE_BITS entry (10 R63). -/
def codeByte (w : BitVec 256) (j : Nat) : Byte := w.extractLsb' (8 * (31 - j)) 8

/-- CODE[b]: the first CODE_LEN[b] bits of CODE_BITS[b] (10 R63). -/
def State.code (s : State) (b : Byte) : Bits :=
  (List.range (s.codeLenOf b).toNat).map (s.codeBitsOf b).getMsbD

/-- The 256 symbols in rising order. -/
def symbols : List Byte := (List.range 256).map (BitVec.ofNat 8)

/-- The symbol whose code equals the accumulated bits, if there is one (41 R190). -/
def State.lookup (s : State) (acc : Bits) : Option Byte :=
  (s.codeLen.toList.zipIdx.find? fun e => e.1.toNat == acc.length && s.code (BitVec.ofNat 8 e.2) == acc).map
    fun e => BitVec.ofNat 8 e.2

/-- A code table: CODE_LEN, CODE_BITS and ORDER (10 R62–R64). -/
structure CodeTable where
  len : Vector Byte 256
  bits : Vector (BitVec 256) 256
  order : Vector Byte 256
  deriving DecidableEq, Repr

/-- The cleared table. -/
def CodeTable.empty : CodeTable :=
  ⟨Vector.replicate 256 0, Vector.replicate 256 0, Vector.replicate 256 0⟩

/-- `setCode(s, c)` with `i` the number of symbols set before (40 R165), and the commit of one entry (42 R220). -/
def CodeTable.setCode (t : CodeTable) (i : Nat) (b : Byte) (c : Bits) : CodeTable where
  len := t.len.set b.toNat (BitVec.ofNat 8 c.length) b.isLt
  bits := t.bits.set b.toNat (codeWord c) b.isLt
  order := t.order.setIfInBounds i b

/-- The table with the given entries set in order on the cleared table. -/
def CodeTable.ofEntries (entries : List (Byte × Bits)) : CodeTable :=
  entries.zipIdx.foldl (fun t e => t.setCode e.2 e.1.1 e.1.2) CodeTable.empty

/-- Put a code table into CODE_LEN, CODE_BITS and ORDER. -/
def State.setTable (s : State) (t : CodeTable) : State :=
  { s with codeLen := t.len, codeBits := t.bits, order := t.order }

end Sys2Proof.Machine
end

