-- ==== Sys2Proof/Machine/Bus.lean ====
section
/-! DEFINITION. The host window (20 R84): which access it takes, what a read gives and what a write does, idle, in the
busy window (70 R302) and during the reset sequence (70 R290); and the reset input. -/

namespace Sys2Proof.Machine

/-! ### The map -/

/-- The window is 2^26 bytes (20 R82). -/
def windowSize : Nat := 2 ^ 26

/-- The window offset of a bus address, none outside the window at BASE (20 R84). -/
def windowOffset (p : Params) (addr : Nat) : Option Nat :=
  if p.base ≤ addr ∧ addr < p.base + windowSize then some (addr - p.base) else none

/-- The region of a window offset (20 R84). -/
def regionOf (off : Nat) : Region :=
  if off < 0x400 then .reg
  else if off < 0x800 then .freq
  else if off < 0x900 then .codeLen
  else if off < 0xA00 then .order
  else if off < 0xB00 then .ext
  else if off < 0x1000 then .reserved
  else if off < 0x2000 then .node
  else if off < 0x4000 then .codeBits
  else if off < 0x1000000 then .reserved
  else if off < 0x2000000 then .inBuf
  else if off < 0x3000000 then .outBuf
  else .reserved

/-- Registers, FREQ and NODE take 4-byte accesses only, the other regions 1, 2 and 4 (20 R84). -/
def regionAllows (r : Region) (n : Width) : Bool :=
  match r with
  | .reg => n == .four
  | .freq => n == .four
  | .node => n == .four
  | .codeLen => true
  | .order => true
  | .ext => true
  | .codeBits => true
  | .inBuf => true
  | .outBuf => true
  | .reserved => true

/-- An access is served when it is naturally aligned and of a width its region allows; else it is a bus error
(20 R84, R90). -/
def accessOk (off : Nat) (n : Width) : Bool := off % n.bytes == 0 && regionAllows (regionOf off) n

/-- The register offsets (10 R33). -/
def regOffset : Reg → Nat
  | .id => 0x000
  | .cmd => 0x004
  | .status => 0x008
  | .irqEn => 0x00C
  | .inLen => 0x010
  | .outLen => 0x014
  | .rdPtr => 0x018
  | .extLen => 0x01C
  | .nsym => 0x020
  | .root => 0x024
  | .nnodes => 0x028
  | .maxLen => 0x02C
  | .sigBits => 0x030
  | .payBits => 0x034
  | .payOff => 0x038
  | .errInfo => 0x03C
  | .inCapR => 0x040
  | .outCapR => 0x044

/-- Every register, in the order of 10 R33. -/
def allRegs : List Reg :=
  [.id, .cmd, .status, .irqEn, .inLen, .outLen, .rdPtr, .extLen, .nsym, .root, .nnodes, .maxLen, .sigBits,
   .payBits, .payOff, .errInfo, .inCapR, .outCapR]

/-- The register at an offset, none at a reserved one (10 R33). -/
def regAt (off : Nat) : Option Reg := allRegs.find? fun r => regOffset r == off

/-! ### Reads -/

/-- The constant of ID (10 R34). -/
def idValue : Word := 0x48554631

/-- A register as the host reads it while BUSY is 0 (10 R33; CMD reads 0, 10 R35). -/
def State.readReg (s : State) : Reg → Word
  | .id => idValue
  | .cmd => 0
  | .status => s.statusWord
  | .irqEn => s.irqEn.setWidth 32
  | .inLen => s.inLen
  | .outLen => s.outLen
  | .rdPtr => s.rdPtr
  | .extLen => s.extLen.setWidth 32
  | .nsym => s.nsym.setWidth 32
  | .root => s.root.setWidth 32
  | .nnodes => s.nnodes.setWidth 32
  | .maxLen => s.maxLen.setWidth 32
  | .sigBits => s.sigBits.setWidth 32
  | .payBits => s.payBits
  | .payOff => s.payOff
  | .errInfo => s.errInfo
  | .inCapR => BitVec.ofNat 32 s.params.inCap
  | .outCapR => BitVec.ofNat 32 s.params.outCap

/-- Word 1 of a node store entry (10 R60). -/
def Node.word1 (n : Node) : Word := bit n.valid ++ bit n.leaf ++ 0#4 ++ n.sym ++ n.right ++ n.left

/-- The word at byte `i` of the NODE window; entry 511 does not exist and reads 0 (10 R60, 20 R85). -/
def State.readNode (s : State) (i : Nat) : Word :=
  if i % 8 < 4 then (nodeAt s.nodes (i / 8)).weight else (nodeAt s.nodes (i / 8)).word1

/-- One byte of a byte-array region as the host reads it while BUSY is 0, none where its value is unspecified:
OUT_BUF at or past OUT_LEN (93, log 5). Reserved bytes read 0 (20 R85). -/
def State.peekByte (s : State) (off : Nat) : Option Byte :=
  match regionOf off with
  | .codeLen => some (s.codeLen.getD (off - 0x800) 0)
  | .order => some (s.order.getD (off - 0x900) 0)
  | .ext => some (if off - extBase < 255 then s.ramByte off else 0)
  | .codeBits => some (codeByte (s.codeBits.getD ((off - 0x2000) / 32) 0) ((off - 0x2000) % 32))
  | .inBuf => some (if off - inBase < s.params.inCap then s.ramByte off else 0)
  | .outBuf =>
    if off - outBase < s.params.outCap then
      if off - outBase < s.outLen.toNat then some (s.ramByte off) else none
    else some 0
  | .reg => some 0
  | .freq => some 0
  | .node => some 0
  | .reserved => some 0

/-- Byte lane k of a bus value: bits 8k + 7 : 8k (20 R89). -/
def lane (v : Word) (k : Nat) : Byte := v.extractLsb' (8 * k) 8

/-- The bus value of bytes, the lowest offset in the lowest lane (20 R89). -/
def joinLanes (bs : List Byte) : Word := BitVec.ofNat 32 (bs.foldr (fun b acc => b.toNat + 256 * acc) 0)

/-- The bytes an access of width n reads from offset `off`; an unspecified byte is the free word's in its lane. -/
def State.peekBytes (s : State) (off : Nat) (n : Width) (free : Word) : Word :=
  joinLanes ((List.range n.bytes).map fun k => (s.peekByte (off + k)).getD (lane free k))

/-- The free word cut to an access of width n. -/
def freeFor (n : Width) (free : Word) : Word := joinLanes ((List.range n.bytes).map (lane free))

/-- What a read gives while BUSY is 0 (20 R84, R85, R89). -/
def State.readIdle (s : State) (off : Nat) (n : Width) (free : Word) : Word :=
  match regionOf off with
  | .reg =>
    match regAt off with
    | some r => s.readReg r
    | none => 0
  | .freq => s.freq.getD ((off - 0x400) / 4) 0
  | .node => s.readNode (off - 0x1000)
  | .codeLen => s.peekBytes off n free
  | .order => s.peekBytes off n free
  | .ext => s.peekBytes off n free
  | .codeBits => s.peekBytes off n free
  | .inBuf => s.peekBytes off n free
  | .outBuf => s.peekBytes off n free
  | .reserved => s.peekBytes off n free

/-- A register as the host reads it in the busy window: the ones 70 R302 lists have values, the others are free. -/
def State.readRegRunning (s : State) (r : Reg) (free : Word) : Word :=
  if r = .id ∨ r = .inCapR ∨ r = .outCapR ∨ r = .irqEn then s.readReg r
  else if r = .status then s.statusWordRunning free
  else free

/-- What a read gives in the busy window (70 R302; 93: every other read is unspecified, log 8). -/
def State.readRunning (s : State) (off : Nat) (n : Width) (free : Word) : Word :=
  match regAt off with
  | some r => s.readRegRunning r free
  | none => freeFor n free

/-- A register as the host reads it during the reset sequence (70 R290). -/
def State.readRegResetting (s : State) (r : Reg) (free : Word) : Word :=
  if r = .id ∨ r = .inCapR ∨ r = .outCapR then s.readReg r
  else if r = .status then statusWordResetting free
  else free

/-- What a read gives during the reset sequence (70 R290). -/
def State.readResetting (s : State) (off : Nat) (n : Width) (free : Word) : Word :=
  match regAt off with
  | some r => s.readRegResetting r free
  | none => freeFor n free

/-- What a read gives, by phase. -/
def State.readValue (s : State) (off : Nat) (n : Width) (free : Word) : Word :=
  match s.phase with
  | .idle => s.readIdle off n free
  | .running _ => s.readRunning off n free
  | .resetting => s.readResetting off n free

/-- A served read: its data is answered and no register or window changes (20 R91). -/
def State.serveRead (s : State) (off : Nat) (n : Width) : State :=
  { s with response := .data (s.readValue off n (Config.freeWord s.draws)), draws := s.draws + 1 }

/-! ### Writes -/

/-- A write to a register while BUSY is 0 (10 R33–R57): CMD is accepted, read-only registers ignore it. -/
def State.writeReg (s : State) (r : Reg) (v : Word) : State :=
  match r with
  | .cmd => s.accept v
  | .status => s.writeStatus v
  | .irqEn => { s with irqEn := v.setWidth 3 }
  | .inLen => { s with inLen := v }
  | .rdPtr => { s with rdPtr := v }
  | .extLen => { s with extLen := v.setWidth 8 }
  | .id => s
  | .outLen => s
  | .nsym => s
  | .root => s
  | .nnodes => s
  | .maxLen => s
  | .sigBits => s
  | .payBits => s
  | .payOff => s
  | .errInfo => s
  | .inCapR => s
  | .outCapR => s

/-- The host writes a byte at this offset: EXT below 255, IN_BUF below IN_CAP (20 R84, R85). -/
def State.hostWritable (s : State) (off : Nat) : Bool :=
  match regionOf off with
  | .ext => decide (off - extBase < 255)
  | .inBuf => decide (off - inBase < s.params.inCap)
  | .reg => false
  | .freq => false
  | .codeLen => false
  | .order => false
  | .node => false
  | .codeBits => false
  | .outBuf => false
  | .reserved => false

/-- A host write of one byte: read-only and reserved bytes ignore it (20 R84, R85). -/
def State.pokeByte (s : State) (off : Nat) (v : Byte) : State :=
  if s.hostWritable off then { s with mem := Memory.write s.mem off v } else s

/-- A host write of the low `n` lanes of `v`, the lowest lane at the lowest offset (20 R89). -/
def State.pokeLanes (s : State) (off : Nat) (v : Word) : Nat → State
  | 0 => s
  | k + 1 => (s.pokeLanes off v k).pokeByte (off + k) (lane v k)

/-- A write while BUSY is 0 (20 R84, R85, R89). -/
def State.writeIdle (s : State) (off : Nat) (n : Width) (v : Word) : State :=
  match regionOf off with
  | .reg =>
    match regAt off with
    | some r => s.writeReg r v
    | none => s
  | .freq => { s with freq := s.freq.setIfInBounds ((off - 0x400) / 4) v }
  | .ext => s.pokeLanes off v n.bytes
  | .inBuf => s.pokeLanes off v n.bytes
  | .codeLen => s
  | .order => s
  | .node => s
  | .codeBits => s
  | .outBuf => s
  | .reserved => s

/-- A write in the busy window: STATUS and IRQ_EN are written, anything else is dropped and sets OVERRUN
(10 R40, 70 R302). -/
def State.writeRunning (s : State) (off : Nat) (v : Word) : State :=
  match regAt off with
  | some .status => s.writeStatus v
  | some .irqEn => { s with irqEn := v.setWidth 3 }
  | _ => { s with overrun := true }

/-- A write, by phase; during the reset sequence every write is ignored, without OVERRUN (70 R290). -/
def State.writeValue (s : State) (off : Nat) (n : Width) (v : Word) : State :=
  match s.phase with
  | .idle => s.writeIdle off n v
  | .running _ => s.writeRunning off v
  | .resetting => s

/-- A served write. -/
def State.serveWrite (s : State) (off : Nat) (n : Width) (v : Word) : State :=
  { s.writeValue off n v with response := .written }

/-! ### One access, and the reset input -/

/-- A host access at a window offset: a bus error changes nothing and gives no data (20 R90, 60 R275; log 6). -/
def State.serve (s : State) (a : Access) (off : Nat) : State :=
  if accessOk off a.width then
    match a with
    | .read _ n => s.serveRead off n
    | .write _ n v => s.serveWrite off n v
  else { s with response := .busError }

/-- A host access by bus address. -/
def hostAccess (a : Access) (s : State) : Host.Outcome State Fault Refusal :=
  match windowOffset s.params a.addr with
  | some off => .next (s.serve a off)
  | none => .fault (.outsideWindow a.addr)

/-- The reset input is asserted (70 R290, R292): a running command is abandoned, the registers and tables take their
reset values, the buffers' contents become unspecified, and BUSY is 1 until the sequence ends. The platform's
parameters, the events still to come, the last answer and the count of reads are not HUFCORE's and stay. -/
def State.assertReset (s : State) : State :=
  { State.afterReset s.params with
    phase := .resetting
    agenda := s.agenda
    response := s.response
    draws := s.draws
    epoch := s.epoch + 1 }

/-- The reset sequence ends: BUSY ← 0 (70 R290). -/
def State.endReset (s : State) : State := { s with phase := .idle }

end Sys2Proof.Machine
end

