-- ==== Sys2Proof/Machine/Analysis.lean ====
section
/-! DEFINITION. COUNT, BUILD and GENCODE (40). -/

namespace Sys2Proof.Machine

/-! ### COUNT -/

/-- FREQ after the tally of a byte sequence: entry b counts the occurrences of b (40 R151, R152).
A count is at most 2^24 (00 R10), so 32 bits hold it. -/
def tally (bs : List Byte) : Vector Word 256 :=
  tabulate 256 fun b => BitVec.ofNat 32 (bs.count (BitVec.ofNat 8 b))

/-- S of 40 R155: the present symbols, rising, as node indices. -/
def presentSymbols (freq : Vector Word 256) : List Nat :=
  (freq.toList.zipIdx.filter fun e => e.1 != 0).map Prod.snd

/-- The body of COUNT (40 R151). -/
def countBody (s : State) : Ran :=
  s.checkInLen fun s =>
    let freq := tally (s.inBytes 0 s.inLen.toNat)
    .ok { s with
      freq := freq
      nsym := BitVec.ofNat 9 (presentSymbols freq).length
      treeValid := false
      tableValid := false }

/-- COUNT (40 R151). -/
def execCount (s : State) : Host.Outcome State Fault Refusal := runCommand countBody s

/-! ### BUILD -/

/-- The exact sum of all FREQ entries (40 R157). -/
def totalWeight (freq : Vector Word 256) : Nat := (freq.toList.map BitVec.toNat).sum

/-- A leaf (10 R59). -/
def Node.ofLeaf (b : Nat) (weight : Word) : Node := ⟨true, true, BitVec.ofNat 8 b, weight, 0, 0⟩

/-- The node store with one leaf for each present symbol and nothing else (40 R155). -/
def leafNodes (freq : Vector Word 256) : Vector Node 511 :=
  tabulate 511 fun n => if freq.getD n 0 != 0 then Node.ofLeaf n (freq.getD n 0) else Node.empty

/-- The merge loop's state: the node store, the set Q of not-yet-merged nodes, the next internal index (40 R155). -/
structure Merge where
  nodes : Vector Node 511
  queue : List Nat
  next : Nat
  deriving DecidableEq, Repr

/-- The order of extraction: smaller WEIGHT first, among equal weights the smaller index (40 R159). -/
def keyLess (nodes : Vector Node 511) (a b : Nat) : Bool :=
  decide ((nodeAt nodes a).weight < (nodeAt nodes b).weight) ||
    ((nodeAt nodes a).weight == (nodeAt nodes b).weight && decide (a < b))

/-- `minKey(Q)` (40 R155); of an empty Q, which the loop never asks, 0. -/
def minKey (nodes : Vector Node 511) : List Nat → Nat
  | [] => 0
  | n :: rest => rest.foldl (fun m k => if keyLess nodes k m then k else m) n

/-- One merge: the two least nodes become LEFT and RIGHT of a new internal node (40 R155, R160). -/
def Merge.once (m : Merge) : Merge :=
  let a := minKey m.nodes m.queue
  let rest := m.queue.erase a
  let b := minKey m.nodes rest
  { nodes := m.nodes.setIfInBounds m.next
      ⟨true, false, 0, (nodeAt m.nodes a).weight + (nodeAt m.nodes b).weight, BitVec.ofNat 9 a, BitVec.ofNat 9 b⟩
    queue := m.next :: rest.erase b
    next := m.next + 1 }

/-- The merge loop (40 R158); the first argument bounds its rounds. -/
def Merge.loop : Nat → Merge → Merge
  | 0, m => m
  | fuel + 1, m => if m.queue.length < 2 then m else Merge.loop fuel m.once

/-- The merge of a frequency table's leaves, at most 255 rounds (40 R158, 70 R310). -/
def mergeAll (freq : Vector Word 256) : Merge :=
  Merge.loop 255 ⟨leafNodes freq, presentSymbols freq, 256⟩

/-- The body of BUILD (40 R155). -/
def buildBody (s : State) : Ran :=
  let present := presentSymbols s.freq
  if present.length = 0 then .raised .emptyAlphabet 0 s
  else if totalWeight s.freq > 0xFFFFFFFF then .raised .weightOverflow 0 s
  else
    let m := mergeAll s.freq
    .ok { s with
      nodes := m.nodes
      root := BitVec.ofNat 9 (m.queue.headD 0)
      nsym := BitVec.ofNat 9 present.length
      nnodes := BitVec.ofNat 10 (2 * present.length - 1)
      treeValid := true
      tableValid := false }

/-- BUILD (40 R155). -/
def execBuild (s : State) : Host.Outcome State Fault Refusal := runCommand buildBody s

/-! ### GENCODE -/

/-- `walk(n, c)` (40 R165, R167): the leaves below n with their codes, LEFT before RIGHT. The first argument bounds
the depth; a tree of BUILD is at most 255 deep (40 R162). -/
def walk (nodes : Vector Node 511) : Nat → Nat → Bits → List (Byte × Bits)
  | 0, _, _ => []
  | fuel + 1, n, c =>
    if (nodeAt nodes n).leaf then [((nodeAt nodes n).sym, c)]
    else
      walk nodes fuel (nodeAt nodes n).left.toNat (c ++ [false]) ++
        walk nodes fuel (nodeAt nodes n).right.toNat (c ++ [true])

/-- The symbols and codes of a tree in walk order; a root that is a leaf gets the code "0" (40 R166). -/
def treeCodes (nodes : Vector Node 511) (root : Nat) : List (Byte × Bits) :=
  if (nodeAt nodes root).leaf then [((nodeAt nodes root).sym, [false])]
  else walk nodes 511 root []

/-- `max_s CODE_LEN[s]` (40 R165). -/
def maxCodeLen (len : Vector Byte 256) : Byte :=
  BitVec.ofNat 8 ((len.toList.map BitVec.toNat).foldr max 0)

/-- The body of GENCODE (40 R165). -/
def gencodeBody (s : State) : Ran :=
  s.checkTree fun s =>
    let t := CodeTable.ofEntries (treeCodes s.nodes s.root.toNat)
    .ok { s.setTable t with maxLen := maxCodeLen t.len, tableValid := true }

/-- GENCODE (40 R165). -/
def execGencode (s : State) : Host.Outcome State Fault Refusal := runCommand gencodeBody s

end Sys2Proof.Machine
end

