-- ==== Sys2Proof/Machine/Bitpack.lean ====
section
/-! DEFINITION. PACK and UNPACK (41). -/

namespace Sys2Proof.Machine

/-! ### PACK -/

/-- The smallest offset i with CODE_LEN[IN[i]] = 0 (41 R183). -/
def State.firstUnknown (s : State) (bs : List Byte) : Option Nat := bs.findIdx? fun b => s.codeLenOf b == 0

/-- T: the number of payload bits (41 R180). -/
def State.payloadLength (s : State) (bs : List Byte) : Nat := (bs.map fun b => (s.codeLenOf b).toNat).sum

/-- P: the codes of the input symbols in input order (41 R180). -/
def State.payload (s : State) (bs : List Byte) : Bits := bs.flatMap s.code

/-- k: the significant-bit count of T bits (41 R181). -/
def sigBitsOf (t : Nat) : Nat := if t % 8 = 0 then 8 else t % 8

/-- The body of PACK (41 R180). -/
def packBody (s : State) : Ran :=
  s.checkInLen fun s =>
  s.checkTable fun s =>
    let bs := s.inBytes 0 s.inLen.toNat
    match s.firstUnknown bs with
    | some i => .raised .unknownSymbol (BitVec.ofNat 32 i) s
    | none =>
      let t := s.payloadLength bs
      s.checkRoom (1 + ceil8 t) fun s =>
        .ok { s.emit (BitVec.ofNat 8 (sigBitsOf t) :: packMSB (s.payload bs)) with
          payOff := s.outLen
          sigBits := BitVec.ofNat 4 (sigBitsOf t)
          payBits := BitVec.ofNat 32 t }

/-- PACK (41 R180). -/
def execPack (s : State) : Host.Outcome State Fault Refusal := runCommand packBody s

/-! ### UNPACK -/

/-- What the matching loop gives: the symbols it stored, and the error that stopped it with its ERR_INFO. -/
structure Decoded where
  syms : List Byte
  stop : Option (ErrKind × Nat)
  deriving DecidableEq, Repr

/-- The matching loop (41 R186, R190): `t` is the index of the next bit, `o` the next write offset, `acc` the
accumulated bits. A full OUT_BUF is `OUT_CAP ≤ o`; no run reaches OUT_CAP < o, where 41 R186 says `o = OUT_CAP`
(log 10). -/
def State.decodeBits (s : State) : Bits → Nat → Nat → Bits → Decoded
  | [], t, _, acc => ⟨[], if acc = [] then none else some (.trailingBits, t)⟩
  | b :: rest, t, o, acc =>
    match s.lookup (acc ++ [b]) with
    | some sym =>
      if s.params.outCap ≤ o then ⟨[], some (.outOverflow, t)⟩
      else
        let d := s.decodeBits rest (t + 1) (o + 1) []
        ⟨sym :: d.syms, d.stop⟩
    | none =>
      if (acc ++ [b]).length = s.maxLen.toNat then ⟨[], some (.badCodeword, t)⟩
      else s.decodeBits rest (t + 1) o (acc ++ [b])

/-- T: the number of bits of `nb` data bytes with significant-bit count `k` (41 R188). -/
def unpackLength (nb k : Nat) : Nat := 8 * nb - (if k < 8 then 8 - k else 0)

/-- The body of UNPACK after its first checks, with `p` = RD_PTR and `k` the count byte (41 R186–R192). -/
def State.unpackFrom (s : State) (p k : Nat) : Ran :=
  let nb := s.inLen.toNat - p - 1
  if k = 0 ∨ k > 8 then .raised .badSigbits (BitVec.ofNat 32 p) s
  else if nb = 0 ∧ k < 8 then .raised .sigbitsNoData (BitVec.ofNat 32 p) s
  else
    let t := unpackLength nb k
    let bits := (bitsMSB (s.inBytes (p + 1) nb)).take t
    let d := s.decodeBits bits 0 s.outLen.toNat []
    let s' := s.store (outBase + s.outLen.toNat) d.syms
    match d.stop with
    | some (e, info) => .raised e (BitVec.ofNat 32 info) s'
    | none =>
      .ok { s' with
        outLen := BitVec.ofNat 32 (s.outLen.toNat + d.syms.length)
        rdPtr := s.inLen
        payOff := BitVec.ofNat 32 p
        sigBits := BitVec.ofNat 4 k
        payBits := BitVec.ofNat 32 t }

/-- The body of UNPACK (41 R186). -/
def unpackBody (s : State) : Ran :=
  s.checkInLen fun s =>
  s.checkRdPtr fun s =>
  s.checkTable fun s =>
    if s.rdPtr = s.inLen then .raised .payloadMissing s.rdPtr s
    else s.unpackFrom s.rdPtr.toNat (s.inByte s.rdPtr.toNat).toNat

/-- UNPACK (41 R186). -/
def execUnpack (s : State) : Host.Outcome State Fault Refusal := runCommand unpackBody s

end Sys2Proof.Machine
end

