-- ==== Sys2Proof/Machine/Container.lean ====
section
/-! DEFINITION. The container codec and the whole-run commands (42). -/

namespace Sys2Proof.Machine

/-! ### Encode direction -/

/-- The extension block (30 R121). -/
def State.extBlock (s : State) : List Byte := s.extLen :: s.extBytes s.extLen.toNat

/-- The body of EMIT_EXT (42 R210). -/
def emitExtBody (s : State) : Ran :=
  s.checkRoom (1 + s.extLen.toNat) fun s => .ok (s.emit s.extBlock)

/-- EMIT_EXT (42 R210). -/
def execEmitExt (s : State) : Host.Outcome State Fault Refusal := runCommand emitExtBody s

/-- The table entry of symbol b (30 R123). -/
def State.tableEntry (s : State) (b : Byte) : List Byte :=
  b :: s.codeLenOf b :: (List.range (ceil8 (s.codeLenOf b).toNat)).map (codeByte (s.codeBitsOf b))

/-- ORDER[0], …, ORDER[NSYM - 1]. -/
def State.orderedSymbols (s : State) : List Byte := (List.range s.nsym.toNat).map s.orderAt

/-- The table block: the count byte NSYM - 1, then the entries in ORDER (30 R122, 42 R214). -/
def State.tableBlock (s : State) : List Byte :=
  BitVec.setWidth 8 (s.nsym - 1) :: s.orderedSymbols.flatMap s.tableEntry

/-- The number of bytes of the table block (42 R213). -/
def State.tableSize (s : State) : Nat :=
  1 + (s.orderedSymbols.map fun b => 2 + ceil8 (s.codeLenOf b).toNat).sum

/-- The body of EMIT_TABLE (42 R213). -/
def emitTableBody (s : State) : Ran :=
  s.checkTable fun s => s.checkRoom s.tableSize fun s => .ok (s.emit s.tableBlock)

/-- EMIT_TABLE (42 R213). -/
def execEmitTable (s : State) : Host.Outcome State Fault Refusal := runCommand emitTableBody s

/-! ### Decode direction -/

/-- The body of PARSE_EXT after its first checks, with `p` = RD_PTR and `l` the length byte (42 R217). -/
def State.parseExtFrom (s : State) (p l : Nat) : Ran :=
  if p + 1 + l > s.inLen.toNat then .raised .extTruncated (BitVec.ofNat 32 p) s
  else
    .ok { s.store extBase (s.inBytes (p + 1) l ++ List.replicate (255 - l) 0) with
      extLen := BitVec.ofNat 8 l
      rdPtr := BitVec.ofNat 32 (p + 1 + l) }

/-- The body of PARSE_EXT (42 R217). -/
def parseExtBody (s : State) : Ran :=
  s.checkInLen fun s =>
  s.checkRdPtr fun s =>
    if s.rdPtr = s.inLen then .raised .extTruncated s.rdPtr s
    else s.parseExtFrom s.rdPtr.toNat (s.inByte s.rdPtr.toNat).toNat

/-- PARSE_EXT (42 R217). -/
def execParseExt (s : State) : Host.Outcome State Fault Refusal := runCommand parseExtBody s

/-- One code is a prefix of the other (42 R224). -/
def prefixClash (c d : Bits) : Bool := c.isPrefixOf d || d.isPrefixOf c

/-- The code of an entry at offset q: the first n bits of its code bytes (42 R221). -/
def State.entryCode (s : State) (q n : Nat) : Bits := (bitsMSB (s.inBytes (q + 2) (ceil8 n))).take n

/-- The staging loop of PARSE_TABLE (42 R220): the entries still to come, the offset q, the staged list E. -/
def State.stageEntries (s : State) :
    Nat → Nat → List (Byte × Bits) → Except (ErrKind × Nat) (List (Byte × Bits) × Nat)
  | 0, q, staged => .ok (staged, q)
  | k + 1, q, staged =>
    let b := s.inByte q
    let n := (s.inByte (q + 1)).toNat
    if q + 2 > s.inLen.toNat then .error (.tableTruncated, s.inLen.toNat)
    else if n = 0 then .error (.codeLenZero, q + 1)
    else if q + 2 + ceil8 n > s.inLen.toNat then .error (.tableTruncated, s.inLen.toNat)
    else if staged.any (fun e => e.1 == b) then .error (.dupSymbol, q)
    else if staged.any (fun e => prefixClash e.2 (s.entryCode q n)) then .error (.notPrefixFree, q)
    else s.stageEntries k (q + 2 + ceil8 n) (staged ++ [(b, s.entryCode q n)])

/-- The body of PARSE_TABLE after its first checks, with `p` = RD_PTR and `c` the count byte (42 R220). -/
def State.parseTableFrom (s : State) (p c : Nat) : Ran :=
  match s.stageEntries (c + 1) (p + 1) [] with
  | .error (e, info) => .raised e (BitVec.ofNat 32 info) s
  | .ok (staged, q) =>
    .ok { s.setTable (CodeTable.ofEntries staged) with
      nsym := BitVec.ofNat 9 (c + 1)
      maxLen := BitVec.ofNat 8 ((staged.map fun e => e.2.length).foldr max 0)
      rdPtr := BitVec.ofNat 32 q
      tableValid := true
      treeValid := false }

/-- The body of PARSE_TABLE (42 R220). -/
def parseTableBody (s : State) : Ran :=
  s.checkInLen fun s =>
  s.checkRdPtr fun s =>
    if s.rdPtr = s.inLen then .raised .tableTruncated s.rdPtr s
    else s.parseTableFrom s.rdPtr.toNat (s.inByte s.rdPtr.toNat).toNat

/-- PARSE_TABLE (42 R220). -/
def execParseTable (s : State) : Host.Outcome State Fault Refusal := runCommand parseTableBody s

/-! ### Whole-run commands -/

/-- The steps of COMPRESS after its own check (42 R230). -/
def compressSteps (s : State) : Ran :=
  (countBody { s with outLen := 0, treeValid := false, tableValid := false }).andThen fun s1 =>
  (emitExtBody s1).andThen fun s2 =>
  if s2.inLen.toNat > 0 then
    (buildBody s2).andThen fun s3 =>
    (gencodeBody s3).andThen fun s4 =>
    (emitTableBody s4).andThen packBody
  else .ok s2

/-- The body of COMPRESS: its own IN_LEN check, then its steps; any failure ends with OUT_LEN ← 0 (42 R230, R233; log 9). -/
def compressBody (s : State) : Ran := (s.checkInLen compressSteps).dropOutput

/-- COMPRESS (42 R230). -/
def execCompress (s : State) : Host.Outcome State Fault Refusal := runCommand compressBody s

/-- The steps of DECOMPRESS after its own check (42 R236, R238). -/
def decompressSteps (s : State) : Ran :=
  (parseExtBody { s with outLen := 0, rdPtr := 0, treeValid := false, tableValid := false }).andThen fun s1 =>
  if s1.rdPtr.toNat < s1.inLen.toNat then (parseTableBody s1).andThen unpackBody
  else .ok { s1 with nsym := 0, maxLen := 0 }

/-- The body of DECOMPRESS: its own IN_LEN check, then its steps; any failure ends with OUT_LEN ← 0 (42 R236, R233;
log 9). -/
def decompressBody (s : State) : Ran := (s.checkInLen decompressSteps).dropOutput

/-- DECOMPRESS (42 R236). -/
def execDecompress (s : State) : Host.Outcome State Fault Refusal := runCommand decompressBody s

end Sys2Proof.Machine
end

