-- ==== Sys2Proof/Machine/Control.lean ====
section
/-! DEFINITION. The control commands NOP and CLEAR (43). -/

namespace Sys2Proof.Machine

/-- NOP (43 R250). -/
def execNop (s : State) : Host.Outcome State Fault Refusal := runCommand .ok s

/-- The values CLEAR leaves (43 R252, R253). -/
def State.cleared (s : State) : State :=
  { s with
    freq := Vector.replicate 256 0
    codeLen := Vector.replicate 256 0
    codeBits := Vector.replicate 256 0
    order := Vector.replicate 256 0
    nodes := Vector.replicate 511 Node.empty
    outLen := 0
    rdPtr := 0
    nsym := 0
    root := 0
    nnodes := 0
    maxLen := 0
    sigBits := 0
    payBits := 0
    payOff := 0
    treeValid := false
    tableValid := false }

/-- CLEAR (43 R252). -/
def execClear (s : State) : Host.Outcome State Fault Refusal := runCommand (fun t => .ok t.cleared) s

/-- The run of a word that is no command: it changes nothing but STATUS and ERR_INFO (30 R112, 60 R263). -/
def execIllegal (w : Word) (s : State) : Host.Outcome State Fault Refusal :=
  runCommand (fun t => .raised .illegalCommand w t) s

end Sys2Proof.Machine
end

