-- ==== Sys2Proof/Machine/Turn.lean ====
section
/-! DEFINITION. The CORE's turn: it runs the accepted command to its end, ends the reset sequence, or stays idle. -/

namespace Sys2Proof.Machine

/-- The CORE's turn. A running word is decoded and its command runs as one step (70 R301); a word that is no command
runs as 30 R112 says; an idle CORE keeps all state (60 R282). -/
def coreTurn (s : State) : Host.Outcome State Fault Refusal :=
  match s.phase with
  | .idle => .next s
  | .resetting => .next s.endReset
  | .running w =>
    match decode w with
    | .ok i => exec i s
    | .error _ => execIllegal w s

/-- The next event at the port: the host's access, the reset input, or, also when nothing is due, the CORE's turn. -/
def nextEvent (s : State) : Host.Outcome State Fault Refusal :=
  match s.agenda with
  | [] => coreTurn s
  | .core :: rest => coreTurn { s with agenda := rest }
  | .reset :: rest => .next { s with agenda := rest }.assertReset
  | .access a :: rest => hostAccess a { s with agenda := rest }

/-- The agenda with the CORE's turn first: unchanged when it is the CORE's turn already. -/
def coreFirst : List Event → List Event
  | [] => []
  | .core :: rest => .core :: rest
  | .access a :: rest => .core :: .access a :: rest
  | .reset :: rest => .core :: .reset :: rest

/-- The word `w` accepted and running, with the CORE to move next (log 1). -/
def State.withCommand (s : State) (w : Word) : State :=
  { s with phase := .running w, agenda := coreFirst s.agenda }

end Sys2Proof.Machine
end

