-- ==== Sys2Proof/Machine/Step.lean ====
section
/-! DEFINITION. One step of HUFCORE and its host. -/

namespace Sys2Proof.Machine

/-- One step: the next event at the port (20 R94). -/
def step (s : State) : Host.Outcome State Fault Refusal := nextEvent s

/-- `s` with the command whose bits are `w` where the CORE takes its next command: accepted and running (60 R260). -/
def State.withFetchWord (s : State) (nbits w : Nat) : State := s.withCommand (tableWord nbits w)

end Sys2Proof.Machine
end

