-- ==== Sys2Proof/Safety.lean ====
section
/-! DEFINITION. What claims about HUFCORE are stated in: the invariants the spec gives the machine's state (10 R46, R61,
R63–R65, 60 R263, 70 R302) and what a run and its success are (70 R312). -/

namespace Sys2Proof.Safety

open Sys2Proof.Machine

/-- The window offsets that hold a buffer byte: EXT[0..254], IN_BUF and OUT_BUF (20 R84). -/
def ramOffset (p : Params) (a : Nat) : Prop :=
  (extBase ≤ a ∧ a < extBase + 255) ∨ (inBase ≤ a ∧ a < inBase + p.inCap) ∨ (outBase ≤ a ∧ a < outBase + p.outCap)

/-- The written bytes are in canonical form and stand at offsets that exist (20 R80, R81, R84). -/
structure MemOk (s : State) : Prop where
  canonical : Memory.wf s.mem = true
  inside : ∀ c ∈ s.mem, ramOffset s.params c.1

/-- OUT_LEN ≤ OUT_CAP (10 R46). -/
def OutLenOk (s : State) : Prop := s.outLen.toNat ≤ s.params.outCap

/-- The pairs of ERR_CODE and ERR_SUB (60 R263). -/
def errorPairs : List (BitVec 4 × BitVec 4) :=
  [(0, 0), (1, 0), (2, 1), (2, 2), (3, 1), (3, 2), (4, 0), (5, 0), (6, 0), (7, 0),
   (8, 1), (8, 2), (8, 3), (8, 4), (8, 5), (8, 6), (8, 7), (8, 8), (8, 9), (8, 10)]

/-- ERR_CODE and ERR_SUB hold a listed pair (10 R41, 60 R263), and ERROR comes with a code (10 R39). -/
structure ErrorOk (s : State) : Prop where
  listed : (s.errCode, s.errSub) ∈ errorPairs
  coded : s.error = true → s.errCode ≠ 0

/-- While BUSY is 1: DONE, ERROR, ERR_CODE, ERR_SUB are 0 (70 R302), and ERR_INFO is 0 (60 R260). -/
def BusyOk (s : State) : Prop :=
  s.busy = true → s.done = false ∧ s.error = false ∧ s.errCode = 0 ∧ s.errSub = 0 ∧ s.errInfo = 0

/-- `n` is an internal node in use: an index from 256 up whose entry is valid (10 R59). -/
def Internal (s : State) (n : Nat) : Prop := 256 ≤ n ∧ (nodeAt s.nodes n).valid = true

/-- `c` is a child of the internal node `n`. -/
def Child (s : State) (n c : Nat) : Prop :=
  (nodeAt s.nodes n).left.toNat = c ∨ (nodeAt s.nodes n).right.toNat = c

/-- The node store holds a tree (10 R59, R61). -/
structure Tree (s : State) : Prop where
  /-- 1 ≤ NSYM ≤ 256. -/
  count : 1 ≤ s.nsym.toNat ∧ s.nsym.toNat ≤ 256
  /-- NNODES = 2·NSYM - 1 (10 R51). -/
  size : s.nnodes.toNat = 2 * s.nsym.toNat - 1
  /-- An entry below 256 is unused or the leaf of its own index. -/
  leaf : ∀ n, n < 256 → nodeAt s.nodes n = Node.empty ∨ nodeAt s.nodes n = Node.ofLeaf n (nodeAt s.nodes n).weight
  /-- The leaves are NSYM. -/
  leaves : ((List.range 256).filter fun n => (nodeAt s.nodes n).valid).length = s.nsym.toNat
  /-- The internal nodes are 256 .. 256 + NSYM - 2. -/
  internals : ∀ n, 256 ≤ n → ((nodeAt s.nodes n).valid = true ↔ n < 256 + (s.nsym.toNat - 1))
  /-- An entry past the last internal node is unused. -/
  unused : ∀ n, 256 + (s.nsym.toNat - 1) ≤ n → nodeAt s.nodes n = Node.empty
  /-- An internal node has LEAF 0, SYM 0 and its children's weight. -/
  inner : ∀ n, Internal s n → (nodeAt s.nodes n).leaf = false ∧ (nodeAt s.nodes n).sym = 0 ∧
    (nodeAt s.nodes n).weight =
      (nodeAt s.nodes (nodeAt s.nodes n).left.toNat).weight + (nodeAt s.nodes (nodeAt s.nodes n).right.toNat).weight
  /-- Children are valid, and older than their parent. -/
  older : ∀ n c, Internal s n → Child s n c → (nodeAt s.nodes c).valid = true ∧ c < n
  /-- The two children differ. -/
  distinct : ∀ n, Internal s n → (nodeAt s.nodes n).left ≠ (nodeAt s.nodes n).right
  /-- Every valid entry except ROOT is the child of exactly one internal node. -/
  owned : ∀ c, (nodeAt s.nodes c).valid = true → c ≠ s.root.toNat → ∃! n, Internal s n ∧ Child s n c
  /-- ROOT is valid and nobody's child. -/
  top : (nodeAt s.nodes s.root.toNat).valid = true ∧ ∀ n, Internal s n → ¬ Child s n s.root.toNat
  /-- ROOT is 256 + NSYM - 2 when NSYM ≥ 2. -/
  rootIndex : 2 ≤ s.nsym.toNat → s.root.toNat = 256 + s.nsym.toNat - 2
  /-- ROOT is the only leaf's index when NSYM = 1. -/
  rootLeaf : s.nsym.toNat = 1 → s.root.toNat < 256

/-- While TREE_VALID = 1 the node store holds a tree (10 R61). -/
def TreeOk (s : State) : Prop := s.treeValid = true → Tree s

/-- CODE_LEN, CODE_BITS, ORDER, NSYM and MAXLEN hold a code table (10 R63–R65). -/
structure Table (s : State) : Prop where
  /-- 1 ≤ NSYM ≤ 256. -/
  count : 1 ≤ s.nsym.toNat ∧ s.nsym.toNat ≤ 256
  /-- ORDER[0..NSYM-1] lists each symbol once. -/
  once : s.orderedSymbols.Nodup
  /-- They are the symbols that have codes. -/
  coded : ∀ b, s.codeLenOf b ≠ 0 ↔ b ∈ s.orderedSymbols
  /-- ORDER[NSYM..255] are 0 (10 R64). -/
  orderPad : ∀ i, s.nsym.toNat ≤ i → i < 256 → s.orderAt i = 0
  /-- CODE_BITS past CODE_LEN are 0 (10 R63). -/
  bitsPad : ∀ b k, (s.codeLenOf b).toNat ≤ k → (s.codeBitsOf b).getMsbD k = false
  /-- MAXLEN is the largest CODE_LEN. -/
  longest : (∀ b, s.codeLenOf b ≤ s.maxLen) ∧ ∃ b, s.codeLenOf b = s.maxLen
  /-- No code is a prefix of another symbol's. -/
  prefixFree : ∀ b c, b ≠ c → s.codeLenOf b ≠ 0 → s.codeLenOf c ≠ 0 → ¬ s.code b <+: s.code c

/-- While TABLE_VALID = 1 there is a code table (10 R65). -/
def TableOk (s : State) : Prop := s.tableValid = true → Table s

/-- The invariants together. -/
structure Inv (s : State) : Prop where
  params : s.params.wellFormed = true
  mem : MemOk s
  outLen : OutLenOk s
  errors : ErrorOk s
  busy : BusyOk s
  tree : TreeOk s
  table : TableOk s

/-! ### How a command ends, and the containers claims speak of -/

/-- `s` after a command that ended with success and wrote nothing else (60 R260, R261). -/
def afterSuccess (s : State) : State :=
  { s with done := true, error := false, errCode := 0, errSub := 0, errInfo := 0, phase := .idle }

/-- `s` after a command that ended with an error and wrote nothing else (60 R260, R262). -/
def afterError (s : State) (code sub : BitVec 4) (info : Word) : State :=
  { s with done := true, error := true, errCode := code, errSub := sub, errInfo := info, phase := .idle }

/-- It is the CORE's turn in `s`, and `s'` is `s` with that turn taken from the agenda. -/
def CoreTurn (s s' : State) : Prop :=
  (s.agenda = [] ∧ s' = s) ∨ ∃ rest, s.agenda = .core :: rest ∧ s' = { s with agenda := rest }

/-- The sum of all FREQ entries, exactly (40 R157). -/
def freqSum (s : State) : Nat := (symbols.map fun b => (s.freqOf b).toNat).sum

/-- The number of symbols with FREQ ≠ 0. -/
def presentCount (s : State) : Nat := (symbols.filter fun b => s.freqOf b != 0).length

/-- The order of extraction (40 R159). -/
def Less (s : State) (a b : Nat) : Prop :=
  (nodeAt s.nodes a).weight < (nodeAt s.nodes b).weight ∨
    ((nodeAt s.nodes a).weight = (nodeAt s.nodes b).weight ∧ a < b)

/-- The bits lead from node `n` through internal nodes to the leaf with index `leaf`: 0 to LEFT, 1 to RIGHT (40 R167). -/
def isPath (s : State) : Nat → Bits → Nat → Prop
  | n, [], leaf => n = leaf ∧ (nodeAt s.nodes n).leaf = true
  | n, b :: rest, leaf =>
    (nodeAt s.nodes n).leaf = false ∧
      isPath s (if b then (nodeAt s.nodes n).right.toNat else (nodeAt s.nodes n).left.toNat) rest leaf

/-- The leaves of the node store are the present symbols with their counts (40 R155). -/
def LeavesOfFreq (s : State) : Prop :=
  ∀ b, nodeAt s.nodes b.toNat = if s.freqOf b = 0 then ⟨false, false, 0, 0, 0, 0⟩ else ⟨true, true, b, s.freqOf b, 0, 0⟩

/-- Each internal node's LEFT and RIGHT are the two least of the nodes not merged before it, LEFT the lesser (40 R158–R160). -/
def MergesTwoLeast (s : State) : Prop :=
  ∀ n, Internal s n →
    Less s (nodeAt s.nodes n).left.toNat (nodeAt s.nodes n).right.toNat ∧
    ∀ c, (nodeAt s.nodes c).valid = true → c < n → (∀ m, Internal s m → m < n → ¬ Child s m c) →
      Child s n c ∨ Less s (nodeAt s.nodes n).right.toNat c

/-- The code table is that of the tree: each leaf's code is its path from ROOT, a lone leaf's is "0", and ORDER is the
ascending lexicographic order of the codes (40 R165–R167). -/
structure CodesOfTree (s : State) : Prop where
  coded : ∀ b, s.codeLenOf b ≠ 0 ↔ (nodeAt s.nodes b.toNat).valid = true
  path : 2 ≤ s.nsym.toNat → ∀ b, (nodeAt s.nodes b.toNat).valid = true → isPath s s.root.toNat (s.code b) b.toNat
  lone : s.nsym.toNat = 1 → ∀ b, (nodeAt s.nodes b.toNat).valid = true → s.code b = [false]
  ordered : (s.orderedSymbols.map s.code).Pairwise (· < ·)

/-- The entries of a code table a container may hold: 1 to 256, distinct symbols, lengths 1 to 255, no code a prefix of
another (30 R122, R123; 42 R223, R224). -/
structure Entries (es : List (Byte × Bits)) : Prop where
  count : 1 ≤ es.length ∧ es.length ≤ 256
  lengths : ∀ e ∈ es, 1 ≤ e.2.length ∧ e.2.length ≤ 255
  once : (es.map Prod.fst).Nodup
  prefixFree : es.Pairwise fun e f => ¬ e.2 <+: f.2 ∧ ¬ f.2 <+: e.2

/-- The symbols of the code table with their codes, in ORDER. -/
def entriesOf (s : State) : List (Byte × Bits) := s.orderedSymbols.map fun b => (b, s.code b)

/-- The table block of entries, its padding bits 0 (30 R122, R123). -/
def blockOf (es : List (Byte × Bits)) : List Byte :=
  BitVec.ofNat 8 (es.length - 1) ::
    es.flatMap fun e => e.1 :: BitVec.ofNat 8 e.2.length :: packMSB e.2

/-- The payload block of a bit string (30 R124). -/
def payloadOf (c : Bits) : List Byte :=
  BitVec.ofNat 8 (if c.length % 8 = 0 then 8 else c.length % 8) :: packMSB c

/-- IN_BUF holds the entries from offset `q` on and `q'` is the offset past them; padding bits may have any value
(30 R123, 42 R221). -/
def entriesAt (s : State) : Nat → List (Byte × Bits) → Nat → Prop
  | q, [], q' => q' = q
  | q, e :: rest, q' =>
    s.inByte q = e.1 ∧ (s.inByte (q + 1)).toNat = e.2.length ∧
      (bitsMSB (s.inBytes (q + 2) (ceil8 e.2.length))).take e.2.length = e.2 ∧
      entriesAt s (q + 2 + ceil8 e.2.length) rest q'

/-- The number of payload bits of a payload block at `p`: its `nb` data bytes without the discarded bits (41 R188). -/
def payloadBits (s : State) (p : Nat) : Nat :=
  if (s.inByte p).toNat = 8 then 8 * (s.inLen.toNat - p - 1)
  else 8 * (s.inLen.toNat - p - 1) - (8 - (s.inByte p).toNat)

/-- IN_BUF holds from offset `p` to IN_LEN a payload block whose header is well formed and whose significant bits are
`c`; the discarded bits may have any value (41 R187–R189). -/
structure PayloadAt (s : State) (p : Nat) (c : Bits) : Prop where
  some : p < s.inLen.toNat
  header : 1 ≤ (s.inByte p).toNat ∧ (s.inByte p).toNat ≤ 8
  data : s.inLen.toNat - p - 1 = 0 → (s.inByte p).toNat = 8
  bits : (bitsMSB (s.inBytes (p + 1) (s.inLen.toNat - p - 1))).take (payloadBits s p) = c

/-- From `s` to `t` the bytes `vs` were stored in OUT_BUF from OUT_LEN up, and no other byte of any buffer changed. -/
structure OutputStored (s t : State) (vs : List Byte) : Prop where
  stored : ∀ j (h : j < vs.length), t.outByte (s.outLen.toNat + j) = vs[j]
  others : ∀ a, ¬ (outBase + s.outLen.toNat ≤ a ∧ a < outBase + s.outLen.toNat + vs.length) → t.ramByte a = s.ramByte a

/-! ### Runs (70 R312) -/

/-- Run from `s`, one after another and up to the first that ends with ERROR = 1, the commands leave `t` (42 R230). -/
def Runs : List Instr → State → State → Prop
  | [], s, t => t = s
  | i :: rest, s, t => ∃ u, exec i s = .next u ∧ if u.error then t = u else Runs rest u t

/-- A run has ended: the host has issued its last access and BUSY is 0. -/
def ended (s : State) : Bool := s.agenda.isEmpty && !s.busy

/-- The step from `s` to `t` ended a command. -/
def endsCommand (s t : State) : Bool :=
  match s.phase with
  | .running _ => t.done && !t.busy
  | .idle => false
  | .resetting => false

/-- The run of at most `k` steps from `s` ends, and each of its commands ended with ERROR = 0 (70 R312). DESIGN CHOICE
(log 19): 70 R312 says nothing about a run cut by reset; here such a run goes on past the reset, and the abandoned command
counts as no failure. -/
def runSucceeds : Nat → State → Bool
  | 0, s => ended s
  | k + 1, s =>
    if ended s then true
    else
      match step s with
      | .next t => (!endsCommand s t || !t.error) && runSucceeds k t
      | .fault _ => false
      | .refused _ => false

end Sys2Proof.Safety
end

