-- ==== Sys2Proof/Certificates/Slice0/Obligations.lean ====
section
/-! DEFINITION. The statements about HUFCORE for the provers, each citing the rules it rests on. Where a statement names
the next state as a record update of `s`, every field it does not name is as before, memory included. -/

open Sys2Proof Sys2Proof.Machine Sys2Proof.Safety

/-! ### Command words -/

/-- 30 R111: a word selects a command exactly when it is the listed word. -/
def Obligations.CommandWords : Prop :=
  ∀ w : Word,
    (decode w = .ok .nop ↔ w = 0x00000000) ∧ (decode w = .ok .clear ↔ w = 0x00000001) ∧
    (decode w = .ok .count ↔ w = 0x00000010) ∧ (decode w = .ok .build ↔ w = 0x00000011) ∧
    (decode w = .ok .gencode ↔ w = 0x00000012) ∧ (decode w = .ok .emitExt ↔ w = 0x00000020) ∧
    (decode w = .ok .emitTable ↔ w = 0x00000021) ∧ (decode w = .ok .pack ↔ w = 0x00000022) ∧
    (decode w = .ok .parseExt ↔ w = 0x00000030) ∧ (decode w = .ok .parseTable ↔ w = 0x00000031) ∧
    (decode w = .ok .unpack ↔ w = 0x00000032) ∧ (decode w = .ok .compress ↔ w = 0x00000040) ∧
    (decode w = .ok .decompress ↔ w = 0x00000041)

/-- 30 R113: the decoder is total; it gives a well-formed command exactly on that command's word, and an error on every
other word. -/
def Obligations.DecoderTotal : Prop :=
  (∀ i : Instr, i.wellFormed = true → decode (encode i) = .ok i) ∧
  ∀ w : Word, (∃ i, encode i = w ∧ decode w = .ok i) ∨ ((∀ i, encode i ≠ w) ∧ ∃ e, decode w = .error e)

/-! ### Steps -/

/-- 70 R301: when the running word decodes to a well-formed command and the CORE moves next, the step is `exec` of that
command, on the state with the turn taken from the agenda. -/
def Obligations.StepRunsCommand : Prop :=
  ∀ (s s' : State) (w : Word) (i : Instr), s.phase = .running w → decode w = .ok i → i.wellFormed = true →
    CoreTurn s s' → step s = exec i s'

/-- 30 R112: a running word that is no command changes nothing but STATUS and ERR_INFO and ends with ILLEGAL_COMMAND. -/
def Obligations.IllegalWordFails : Prop :=
  ∀ (s s' : State) (w : Word), s.phase = .running w → (∀ i, encode i ≠ w) → CoreTurn s s' →
    step s = .next (afterError s' 1 0 w)

/-- 60 R282: an idle CORE keeps all state. -/
def Obligations.IdleCoreKeepsState : Prop :=
  ∀ s s' : State, s.phase = .idle → CoreTurn s s' → step s = .next s'

/-- 60 R260: a word written to CMD while BUSY is 0 is accepted: BUSY 1, DONE, ERROR, ERR_CODE, ERR_SUB, ERR_INFO 0. -/
def Obligations.CmdWriteAccepted : Prop :=
  ∀ (s : State) (rest : List Event) (w : Word), s.phase = .idle →
    s.agenda = .access (.write (s.params.base + 0x004) .four w) :: rest →
    step s = .next { s with
      agenda := rest, response := .written, phase := .running w,
      done := false, error := false, errCode := 0, errSub := 0, errInfo := 0 }

/-- 70 R302, 10 R40, R44: in the busy window a write to any offset but STATUS and IRQ_EN that is no bus error is dropped
and sets OVERRUN; a write to STATUS acts as W1C on OVERRUN (DONE and ERROR are 0 then); a write to IRQ_EN is accepted. -/
def Obligations.BusyWrites : Prop :=
  ∀ (s : State) (rest : List Event) (w v : Word) (off : Nat) (n : Width), s.phase = .running w → BusyOk s →
    off < 2 ^ 26 → accessOk off n = true → s.agenda = .access (.write (s.params.base + off) n v) :: rest →
    (off ≠ 0x008 → off ≠ 0x00C →
      step s = .next { s with agenda := rest, response := .written, overrun := true }) ∧
    (off = 0x008 →
      step s = .next { s with agenda := rest, response := .written, overrun := s.overrun && !v.getLsbD 3 }) ∧
    (off = 0x00C →
      step s = .next { s with agenda := rest, response := .written, irqEn := v.setWidth 3 })

/-- 70 R302: what the registers the rule lists read as in the busy window. -/
def Obligations.BusyReads : Prop :=
  ∀ (s : State) (rest : List Event) (w : Word) (r : Reg), s.phase = .running w →
    s.agenda = .access (.read (s.params.base + regOffset r) .four) :: rest →
    ∃ v : Word, step s = .next { s with agenda := rest, response := .data v, draws := s.draws + 1 } ∧
      (r = .id → v = 0x48554631) ∧
      (r = .inCapR → v = BitVec.ofNat 32 s.params.inCap) ∧
      (r = .outCapR → v = BitVec.ofNat 32 s.params.outCap) ∧
      (r = .irqEn → v = s.irqEn.setWidth 32) ∧
      (r = .status → v.getLsbD 0 = true ∧ v.getLsbD 1 = false ∧ v.getLsbD 2 = false ∧ v.getLsbD 3 = s.overrun ∧
        v.extractLsb' 4 12 = 0 ∧ v.extractLsb' 18 14 = 0)

/-- 70 R290, R292: asserting the reset input abandons whatever runs, sets BUSY and deasserts IRQ, and the registers and
tables get their reset values; during the sequence a write is ignored without OVERRUN, STATUS reads BUSY = 1 and ID and the
capacities read their values; the CORE's turn ends it. The first clause rests on the model's choices: that the reset values
are all there at the moment of assertion and that an assertion during the sequence starts it again (log 13), and that the
agenda, the last answer and the count of reads stay (log 14); the epoch it counts up is the model's own field (log 3). That
writes set no OVERRUN is also log 13's reading. -/
def Obligations.ResetSequence : Prop :=
  (∀ (s : State) (rest : List Event), s.agenda = .reset :: rest →
    ∃ t, step s = .next t ∧ t.busy = true ∧ t.irq = false ∧
      t = { State.afterReset s.params with
        phase := .resetting, agenda := rest, response := s.response, draws := s.draws, epoch := s.epoch + 1 }) ∧
  (∀ (s : State) (rest : List Event) (off : Nat) (n : Width) (v : Word), s.phase = .resetting → off < 2 ^ 26 →
    accessOk off n = true → s.agenda = .access (.write (s.params.base + off) n v) :: rest →
    step s = .next { s with agenda := rest, response := .written }) ∧
  (∀ (s : State) (rest : List Event) (r : Reg), s.phase = .resetting →
    s.agenda = .access (.read (s.params.base + regOffset r) .four) :: rest →
    ∃ v : Word, step s = .next { s with agenda := rest, response := .data v, draws := s.draws + 1 } ∧
      (r = .id → v = 0x48554631) ∧ (r = .inCapR → v = BitVec.ofNat 32 s.params.inCap) ∧
      (r = .outCapR → v = BitVec.ofNat 32 s.params.outCap) ∧ (r = .status → v.getLsbD 0 = true)) ∧
  (∀ s s' : State, s.phase = .resetting → CoreTurn s s' → step s = .next { s' with phase := .idle })

/-- 10 R70: the registers and tables right after reset, for every instance; the reset state is the one with the
parameters of log 2 (the model's choice). -/
def Obligations.ResetValues : Prop :=
  State.reset = State.afterReset Params.suggested ∧
  ∀ p : Params,
    (∀ r : Reg, (State.afterReset p).readReg r =
      if r = .id then 0x48554631
      else if r = .inCapR then BitVec.ofNat 32 p.inCap
      else if r = .outCapR then BitVec.ofNat 32 p.outCap
      else 0) ∧
    (State.afterReset p).busy = false ∧ (State.afterReset p).irq = false ∧
    (∀ b, (State.afterReset p).freqOf b = 0 ∧ (State.afterReset p).codeLenOf b = 0 ∧
      (State.afterReset p).codeBitsOf b = 0) ∧
    (∀ i, i < 256 → (State.afterReset p).orderAt i = 0) ∧
    (∀ n, n < 511 → nodeAt (State.afterReset p).nodes n = ⟨false, false, 0, 0, 0, 0⟩)

/-! ### The port while BUSY is 0 -/

/-- 10 R33–R57: what each register reads as. -/
def Obligations.RegisterReads : Prop :=
  ∀ (s : State) (rest : List Event) (r : Reg), s.phase = .idle →
    s.agenda = .access (.read (s.params.base + regOffset r) .four) :: rest →
    ∃ v : Word, step s = .next { s with agenda := rest, response := .data v, draws := s.draws + 1 } ∧
      (r = .id → v = 0x48554631) ∧ (r = .cmd → v = 0) ∧
      (r = .status → v.getLsbD 0 = false ∧ v.getLsbD 1 = s.done ∧ v.getLsbD 2 = s.error ∧ v.getLsbD 3 = s.overrun ∧
        v.extractLsb' 4 4 = s.errCode ∧ v.extractLsb' 8 4 = s.errSub ∧ v.extractLsb' 12 4 = 0 ∧
        v.getLsbD 16 = s.treeValid ∧ v.getLsbD 17 = s.tableValid ∧ v.extractLsb' 18 14 = 0) ∧
      (r = .irqEn → v.toNat = s.irqEn.toNat) ∧ (r = .inLen → v = s.inLen) ∧ (r = .outLen → v = s.outLen) ∧
      (r = .rdPtr → v = s.rdPtr) ∧ (r = .extLen → v.toNat = s.extLen.toNat) ∧ (r = .nsym → v.toNat = s.nsym.toNat) ∧
      (r = .root → v.toNat = s.root.toNat) ∧ (r = .nnodes → v.toNat = s.nnodes.toNat) ∧
      (r = .maxLen → v.toNat = s.maxLen.toNat) ∧ (r = .sigBits → v.toNat = s.sigBits.toNat) ∧
      (r = .payBits → v = s.payBits) ∧ (r = .payOff → v = s.payOff) ∧ (r = .errInfo → v = s.errInfo) ∧
      (r = .inCapR → v = BitVec.ofNat 32 s.params.inCap) ∧ (r = .outCapR → v = BitVec.ofNat 32 s.params.outCap)

/-- 10 R33–R57: what a write to each register does: W1C of STATUS, the writable bits of the others, nothing to a
read-only one. (CMD is `CmdWriteAccepted`.) -/
def Obligations.RegisterWrites : Prop :=
  ∀ (s : State) (rest : List Event) (r : Reg) (v : Word), s.phase = .idle →
    s.agenda = .access (.write (s.params.base + regOffset r) .four v) :: rest → r ≠ .cmd →
    ∃ t, step s = .next t ∧
      (r = .status → t = { s with
        agenda := rest, response := .written, done := s.done && !v.getLsbD 1, error := s.error && !v.getLsbD 2,
        overrun := s.overrun && !v.getLsbD 3 }) ∧
      (r = .irqEn → t = { s with agenda := rest, response := .written, irqEn := v.extractLsb' 0 3 }) ∧
      (r = .inLen → t = { s with agenda := rest, response := .written, inLen := v }) ∧
      (r = .rdPtr → t = { s with agenda := rest, response := .written, rdPtr := v }) ∧
      (r = .extLen → t = { s with agenda := rest, response := .written, extLen := v.extractLsb' 0 8 }) ∧
      (r ∉ [Reg.status, .irqEn, .inLen, .rdPtr, .extLen] → t = { s with agenda := rest, response := .written })

/-- 20 R91: a served read, in any phase, changes no register and no window. -/
def Obligations.ReadsChangeNothing : Prop :=
  ∀ (s : State) (rest : List Event) (off : Nat) (n : Width), off < 2 ^ 26 →
    s.agenda = .access (.read (s.params.base + off) n) :: rest →
    ∃ t, step s = .next t ∧ t = { s with agenda := rest, response := t.response, draws := t.draws }

/-- 20 R90, 60 R275: an access that is not naturally aligned, or is 1 or 2 bytes wide at the registers, FREQ or NODE, is
a bus error in any phase: nothing changes and no data is given. (That the run goes on is log 6.) -/
def Obligations.BusErrorChangesNothing : Prop :=
  ∀ (s : State) (rest : List Event) (a : Access) (off : Nat), off < 2 ^ 26 → a.addr = s.params.base + off →
    (off % a.width.bytes ≠ 0 ∨ (a.width ≠ .four ∧ (off < 0x800 ∨ (0x1000 ≤ off ∧ off < 0x2000)))) →
    s.agenda = .access a :: rest →
    step s = .next { s with agenda := rest, response := .busError }

/-- 20 R84, R85: while BUSY is 0 a write to a read-only window, a reserved region or a reserved register offset is
ignored. -/
def Obligations.ReadOnlyWritesIgnored : Prop :=
  ∀ (s : State) (rest : List Event) (off : Nat) (n : Width) (v : Word), s.phase = .idle → off < 2 ^ 26 →
    accessOk off n = true →
    ((0x048 ≤ off ∧ off < 0x400) ∨ (0x800 ≤ off ∧ off < 0xA00) ∨ (0xB00 ≤ off ∧ off < 0x1000000) ∨
      (0x1000000 + s.params.inCap ≤ off)) →
    s.agenda = .access (.write (s.params.base + off) n v) :: rest →
    step s = .next { s with agenda := rest, response := .written }

/-- 20 R84, R85, R89, 10 R66: while BUSY is 0 a write of n bytes to EXT or IN_BUF stores the little-endian bytes that are
not reserved, and every other byte, register and table is as before. -/
def Obligations.BufferWriteStoresLanes : Prop :=
  ∀ (s : State) (rest : List Event) (off : Nat) (n : Width) (v : Word), s.phase = .idle → accessOk off n = true →
    ((0xA00 ≤ off ∧ off < 0xB00) ∨ (0x1000000 ≤ off ∧ off < 0x2000000)) →
    s.agenda = .access (.write (s.params.base + off) n v) :: rest →
    ∃ t, step s = .next t ∧ t = { s with agenda := rest, response := .written, mem := t.mem } ∧
      (∀ k, k < n.bytes → (off + k < 0xAFF ∨ (0x1000000 ≤ off ∧ off + k < 0x1000000 + s.params.inCap)) →
        t.ramByte (off + k) = v.extractLsb' (8 * k) 8) ∧
      (∀ a, (∀ k, k < n.bytes → a = off + k → (a = 0xAFF ∨ 0x1000000 + s.params.inCap ≤ a)) →
        t.ramByte a = s.ramByte a)

/-- 10 R58: while BUSY is 0 a write to FREQ[b] changes that entry and nothing else. -/
def Obligations.FreqWrite : Prop :=
  ∀ (s : State) (rest : List Event) (b : Byte) (v : Word), s.phase = .idle →
    s.agenda = .access (.write (s.params.base + 0x400 + 4 * b.toNat) .four v) :: rest →
    ∃ t, step s = .next t ∧ t.freqOf b = v ∧ (∀ c, c ≠ b → t.freqOf c = s.freqOf c) ∧
      t = { s with agenda := rest, response := .written, freq := t.freq }

/-- 10 R58–R67, 20 R84, R85, R89: what the byte-array windows read as while BUSY is 0, lane by lane, reserved bytes 0;
OUT_BUF at or past OUT_LEN is left open (93). -/
def Obligations.ByteWindowReads : Prop :=
  ∀ (s : State) (rest : List Event) (off : Nat) (n : Width), s.phase = .idle → off < 2 ^ 26 → accessOk off n = true →
    s.agenda = .access (.read (s.params.base + off) n) :: rest →
    ∃ v : Word, step s = .next { s with agenda := rest, response := .data v, draws := s.draws + 1 } ∧
      v.toNat < 2 ^ (8 * n.bytes) ∧
      ∀ k a, k < n.bytes → a = off + k →
        (0x800 ≤ a → a < 0x900 → v.extractLsb' (8 * k) 8 = s.codeLenOf (BitVec.ofNat 8 (a - 0x800))) ∧
        (0x900 ≤ a → a < 0xA00 → v.extractLsb' (8 * k) 8 = s.orderAt (a - 0x900)) ∧
        (0xA00 ≤ a → a < 0xAFF → v.extractLsb' (8 * k) 8 = s.extByte (a - 0xA00)) ∧
        (0xAFF ≤ a → a < 0x1000 → v.extractLsb' (8 * k) 8 = 0) ∧
        (0x2000 ≤ a → a < 0x4000 → v.extractLsb' (8 * k) 8 =
          codeByte (s.codeBitsOf (BitVec.ofNat 8 ((a - 0x2000) / 32))) ((a - 0x2000) % 32)) ∧
        (0x4000 ≤ a → a < 0x1000000 → v.extractLsb' (8 * k) 8 = 0) ∧
        (0x1000000 ≤ a → a < 0x2000000 → v.extractLsb' (8 * k) 8 =
          if a - 0x1000000 < s.params.inCap then s.inByte (a - 0x1000000) else 0) ∧
        (0x2000000 ≤ a → a < 0x3000000 → s.params.outCap ≤ a - 0x2000000 → v.extractLsb' (8 * k) 8 = 0) ∧
        (0x2000000 ≤ a → a < 0x3000000 → a - 0x2000000 < s.params.outCap → a - 0x2000000 < s.outLen.toNat →
          v.extractLsb' (8 * k) 8 = s.outByte (a - 0x2000000)) ∧
        (0x3000000 ≤ a → v.extractLsb' (8 * k) 8 = 0)

/-- 10 R58, R60, 20 R84, R85: what the FREQ and NODE windows read as while BUSY is 0. -/
def Obligations.WordWindowReads : Prop :=
  ∀ (s : State) (rest : List Event) (off : Nat), s.phase = .idle →
    s.agenda = .access (.read (s.params.base + off) .four) :: rest →
    (∀ b : Byte, off = 0x400 + 4 * b.toNat →
      step s = .next { s with agenda := rest, response := .data (s.freqOf b), draws := s.draws + 1 }) ∧
    (∀ n, n < 511 → off = 0x1000 + 8 * n →
      step s = .next { s with
        agenda := rest, response := .data (nodeAt s.nodes n).weight, draws := s.draws + 1 }) ∧
    (∀ n, n < 511 → off = 0x1000 + 8 * n + 4 →
      ∃ v : Word, step s = .next { s with agenda := rest, response := .data v, draws := s.draws + 1 } ∧
        v.extractLsb' 0 9 = (nodeAt s.nodes n).left ∧ v.extractLsb' 9 9 = (nodeAt s.nodes n).right ∧
        v.extractLsb' 18 8 = (nodeAt s.nodes n).sym ∧ v.extractLsb' 26 4 = 0 ∧
        v.getLsbD 30 = (nodeAt s.nodes n).leaf ∧ v.getLsbD 31 = (nodeAt s.nodes n).valid) ∧
    (off = 0x1FF8 ∨ off = 0x1FFC →
      step s = .next { s with agenda := rest, response := .data 0, draws := s.draws + 1 })

/-- 60 R270: IRQ is a level computed from STATUS and IRQ_EN, so acceptance and a full acknowledgement of the enabled
bits deassert it. -/
def Obligations.IrqFollowsStatus : Prop :=
  ∀ s : State,
    (s.irq = true ↔ (s.done = true ∧ s.irqEn.getLsbD 0 = true) ∨ (s.error = true ∧ s.irqEn.getLsbD 1 = true) ∨
      (s.overrun = true ∧ s.irqEn.getLsbD 2 = true)) ∧
    (s.writeStatus 0x0000000E).irq = false ∧
    (∀ w, (s.accept w).irq = (s.overrun && s.irqEn.getLsbD 2))

/-! ### Control commands -/

/-- 43 R250: NOP. -/
def Obligations.NopResult : Prop :=
  ∀ s : State, exec .nop s = .next (afterSuccess s)

/-- 43 R252, R253: what CLEAR writes; everything else is unchanged. -/
def Obligations.ClearResult : Prop :=
  ∀ s : State, ∃ t, exec .clear s = .next t ∧
    t = { afterSuccess s with
      freq := t.freq, codeLen := t.codeLen, codeBits := t.codeBits, order := t.order, nodes := t.nodes,
      outLen := 0, rdPtr := 0, nsym := 0, root := 0, nnodes := 0, maxLen := 0, sigBits := 0, payBits := 0, payOff := 0,
      treeValid := false, tableValid := false } ∧
    (∀ b, t.freqOf b = 0 ∧ t.codeLenOf b = 0 ∧ t.codeBitsOf b = 0) ∧ (∀ i, i < 256 → t.orderAt i = 0) ∧
    (∀ n, n < 511 → nodeAt t.nodes n = ⟨false, false, 0, 0, 0, 0⟩)

/-! ### Checks that come first -/

/-- 60 R264, R265, R263, 42 R233: the PARAM and SEQUENCE checks, in order, and what they leave: nothing changes but STATUS
and ERR_INFO, and COMPRESS and DECOMPRESS end with OUT_LEN = 0. (That 42 R233 holds for their own IN_LEN check too, over the
general sentence of 40 R150, is the model's reading, log 9.) -/
def Obligations.ChecksComeFirst : Prop :=
  ∀ s : State,
    (s.params.inCap < s.inLen.toNat →
      (∀ i ∈ [Instr.count, .pack, .parseExt, .parseTable, .unpack], exec i s = .next (afterError s 2 1 s.inLen)) ∧
      ∀ i ∈ [Instr.compress, .decompress], exec i s = .next (afterError { s with outLen := 0 } 2 1 s.inLen)) ∧
    (s.inLen.toNat ≤ s.params.inCap → s.inLen.toNat < s.rdPtr.toNat →
      ∀ i ∈ [Instr.parseExt, .parseTable, .unpack], exec i s = .next (afterError s 2 2 s.rdPtr)) ∧
    (s.treeValid = false → exec .gencode s = .next (afterError s 3 1 0)) ∧
    (s.tableValid = false → exec .emitTable s = .next (afterError s 3 2 0)) ∧
    (s.tableValid = false → s.inLen.toNat ≤ s.params.inCap → exec .pack s = .next (afterError s 3 2 0)) ∧
    (s.tableValid = false → s.inLen.toNat ≤ s.params.inCap → s.rdPtr.toNat ≤ s.inLen.toNat →
      exec .unpack s = .next (afterError s 3 2 0))

/-! ### COUNT -/

/-- 40 R151: COUNT's frequencies and NSYM, and what it leaves unchanged. (That they sum to IN_LEN is the spec's own
inference, 40 R152.) -/
def Obligations.CountResult : Prop :=
  ∀ s : State, s.inLen.toNat ≤ s.params.inCap →
    ∃ t, exec .count s = .next t ∧
      (∀ b, (t.freqOf b).toNat = (s.inBytes 0 s.inLen.toNat).count b) ∧
      (∀ b, t.freqOf b ≠ 0 ↔ ∃ i, i < s.inLen.toNat ∧ s.inByte i = b) ∧
      freqSum t = s.inLen.toNat ∧ t.nsym.toNat = presentCount t ∧
      t = { afterSuccess s with freq := t.freq, nsym := t.nsym, treeValid := false, tableValid := false }

/-! ### BUILD -/

/-- 40 R155: BUILD's tree, its root weight, NSYM and NNODES, and what it leaves unchanged. (The tree's shape and the root
weight are the spec's own inferences from 40 R155: 10 R51, R61; 40 R158, R162.) -/
def Obligations.BuildResult : Prop :=
  ∀ s : State, (∃ b, s.freqOf b ≠ 0) → freqSum s ≤ 0xFFFFFFFF →
    ∃ t, exec .build s = .next t ∧ Tree t ∧
      (∀ b, s.freqOf b ≠ 0 → nodeAt t.nodes b.toNat = ⟨true, true, b, s.freqOf b, 0, 0⟩) ∧
      (∀ b, s.freqOf b = 0 → nodeAt t.nodes b.toNat = ⟨false, false, 0, 0, 0, 0⟩) ∧
      (nodeAt t.nodes t.root.toNat).weight.toNat = freqSum s ∧
      t.nsym.toNat = presentCount s ∧ t.nnodes.toNat = 2 * presentCount s - 1 ∧
      t = { afterSuccess s with
        nodes := t.nodes, nsym := t.nsym, root := t.root, nnodes := t.nnodes, treeValid := true, tableValid := false }

/-- 40 R158, R159, R160: each internal node's LEFT and RIGHT are the two least, by weight and then index, of the nodes
not merged before it, LEFT the lesser. -/
def Obligations.BuildMergesTwoLeast : Prop :=
  ∀ s : State, (∃ b, s.freqOf b ≠ 0) → freqSum s ≤ 0xFFFFFFFF →
    ∃ t, exec .build s = .next t ∧
      ∀ n, Internal t n →
        Less t (nodeAt t.nodes n).left.toNat (nodeAt t.nodes n).right.toNat ∧
        ∀ c, (nodeAt t.nodes c).valid = true → c < n → (∀ m, Internal t m → m < n → ¬ Child t m c) →
          Child t n c ∨ Less t (nodeAt t.nodes n).right.toNat c

/-- 40 R155 with one present symbol: one leaf, no merge (the spec's own inference, 40 R161). -/
def Obligations.BuildSingleSymbol : Prop :=
  ∀ (s : State) (b : Byte), s.freqOf b ≠ 0 → (∀ c, c ≠ b → s.freqOf c = 0) →
    ∃ t, exec .build s = .next t ∧
      nodeAt t.nodes b.toNat = ⟨true, true, b, s.freqOf b, 0, 0⟩ ∧
      (∀ n, n ≠ b.toNat → (nodeAt t.nodes n).valid = false) ∧
      t.root.toNat = b.toNat ∧ t.nsym = 1 ∧ t.nnodes = 1 ∧ t.treeValid = true

/-- 40 R156: BUILD of an empty table. -/
def Obligations.BuildEmptyAlphabet : Prop :=
  ∀ s : State, (∀ b, s.freqOf b = 0) → exec .build s = .next (afterError s 4 0 0)

/-- 40 R157: BUILD of a table whose exact sum exceeds 2^32 - 1. -/
def Obligations.BuildWeightOverflow : Prop :=
  ∀ s : State, 0xFFFFFFFF < freqSum s → exec .build s = .next (afterError s 5 0 0)

/-! ### GENCODE -/

/-- 40 R165, R167, R169: GENCODE on a tree of two or more leaves: each leaf's code is the path from ROOT to it, ORDER is
the ascending lexicographic order of the codes, the table is a code table, and what it leaves unchanged. (The order of the
codes and the bound on their lengths are the spec's own inferences, R167 and R169.) -/
def Obligations.GencodeResult : Prop :=
  ∀ s : State, s.treeValid = true → Tree s → 2 ≤ s.nsym.toNat →
    ∃ t, exec .gencode s = .next t ∧ Table t ∧
      (∀ b, t.codeLenOf b ≠ 0 ↔ (nodeAt s.nodes b.toNat).valid = true) ∧
      (∀ b, (nodeAt s.nodes b.toNat).valid = true → isPath s s.root.toNat (t.code b) b.toNat) ∧
      (t.orderedSymbols.map t.code).Pairwise (· < ·) ∧
      (∀ b, (t.codeLenOf b).toNat ≤ s.nsym.toNat - 1) ∧
      t = { afterSuccess s with
        codeLen := t.codeLen, codeBits := t.codeBits, order := t.order, maxLen := t.maxLen, tableValid := true }

/-- 40 R166: a root that is a leaf gets the one-bit code 0. -/
def Obligations.GencodeSingleLeaf : Prop :=
  ∀ (s : State) (b : Byte), s.treeValid = true → (nodeAt s.nodes s.root.toNat).leaf = true →
    (nodeAt s.nodes s.root.toNat).sym = b →
    ∃ t, exec .gencode s = .next t ∧
      t.codeLenOf b = 1 ∧ t.code b = [false] ∧ codeByte (t.codeBitsOf b) 0 = 0 ∧ t.orderAt 0 = b ∧ t.maxLen = 1 ∧
      (∀ c, c ≠ b → t.codeLenOf c = 0) ∧
      t = { afterSuccess s with
        codeLen := t.codeLen, codeBits := t.codeBits, order := t.order, maxLen := t.maxLen, tableValid := true }

/-! ### EMIT_EXT, EMIT_TABLE, PACK -/

/-- 42 R210: EMIT_EXT appends the length byte and the extension bytes, and changes nothing else. -/
def Obligations.EmitExtResult : Prop :=
  ∀ s : State, s.params.wellFormed = true → s.outLen.toNat + 1 + s.extLen.toNat ≤ s.params.outCap →
    ∃ t, exec .emitExt s = .next t ∧
      t.outByte s.outLen.toNat = s.extLen ∧
      (∀ j, j < s.extLen.toNat → t.outByte (s.outLen.toNat + 1 + j) = s.extByte j) ∧
      t.outLen.toNat = s.outLen.toNat + 1 + s.extLen.toNat ∧
      (∀ a, ¬ (outBase + s.outLen.toNat ≤ a ∧ a < outBase + s.outLen.toNat + 1 + s.extLen.toNat) →
        t.ramByte a = s.ramByte a) ∧
      t = { afterSuccess s with outLen := t.outLen, mem := t.mem }

/-- 42 R213, R214, 30 R122, R123: EMIT_TABLE appends the table block of the codes in ORDER, and changes nothing else. -/
def Obligations.EmitTableResult : Prop :=
  ∀ s : State, s.params.wellFormed = true → s.tableValid = true → Table s →
    s.outLen.toNat + (blockOf (entriesOf s)).length ≤ s.params.outCap →
    ∃ t, exec .emitTable s = .next t ∧
      (∀ j (h : j < (blockOf (entriesOf s)).length), t.outByte (s.outLen.toNat + j) = (blockOf (entriesOf s))[j]) ∧
      t.outLen.toNat = s.outLen.toNat + (blockOf (entriesOf s)).length ∧
      (∀ a, ¬ (outBase + s.outLen.toNat ≤ a ∧ a < outBase + s.outLen.toNat + (blockOf (entriesOf s)).length) →
        t.ramByte a = s.ramByte a) ∧
      t = { afterSuccess s with outLen := t.outLen, mem := t.mem }

/-- 60 R268: EMIT_EXT and EMIT_TABLE fail before writing when their block does not fit. -/
def Obligations.EmitOverflow : Prop :=
  ∀ s : State,
    (s.params.outCap < s.outLen.toNat + 1 + s.extLen.toNat →
      exec .emitExt s = .next (afterError s 7 0 (BitVec.ofNat 32 (s.outLen.toNat + 1 + s.extLen.toNat)))) ∧
    (s.tableValid = true → Table s → s.params.outCap < s.outLen.toNat + (blockOf (entriesOf s)).length →
      exec .emitTable s =
        .next (afterError s 7 0 (BitVec.ofNat 32 (s.outLen.toNat + (blockOf (entriesOf s)).length))))

/-- 41 R180–R182, 30 R124: PACK appends the significant-bits byte and the packed codes of the input, padded with zeros,
and changes nothing else. -/
def Obligations.PackResult : Prop :=
  ∀ (s : State) (c : Bits), s.params.wellFormed = true → s.inLen.toNat ≤ s.params.inCap → s.tableValid = true →
    (∀ i, i < s.inLen.toNat → s.codeLenOf (s.inByte i) ≠ 0) → c = (s.inBytes 0 s.inLen.toNat).flatMap s.code →
    s.outLen.toNat + 1 + ceil8 c.length ≤ s.params.outCap →
    ∃ t, exec .pack s = .next t ∧
      (t.outByte s.outLen.toNat).toNat = (if c.length % 8 = 0 then 8 else c.length % 8) ∧
      (∀ j k, j < ceil8 c.length → k < 8 →
        (t.outByte (s.outLen.toNat + 1 + j)).getMsbD k = c.getD (8 * j + k) false) ∧
      t.outLen.toNat = s.outLen.toNat + 1 + ceil8 c.length ∧ t.payOff = s.outLen ∧
      t.sigBits.toNat = (if c.length % 8 = 0 then 8 else c.length % 8) ∧ t.payBits.toNat = c.length ∧
      (∀ a, ¬ (outBase + s.outLen.toNat ≤ a ∧ a < outBase + s.outLen.toNat + 1 + ceil8 c.length) →
        t.ramByte a = s.ramByte a) ∧
      t = { afterSuccess s with
        outLen := t.outLen, mem := t.mem, payOff := t.payOff, sigBits := t.sigBits, payBits := t.payBits }

/-- 41 R183: the first input byte without a code fails PACK before it writes anything. -/
def Obligations.PackUnknownSymbol : Prop :=
  ∀ (s : State) (i : Nat), s.inLen.toNat ≤ s.params.inCap → s.tableValid = true → i < s.inLen.toNat →
    s.codeLenOf (s.inByte i) = 0 → (∀ j, j < i → s.codeLenOf (s.inByte j) ≠ 0) →
    exec .pack s = .next (afterError s 6 0 (BitVec.ofNat 32 i))

/-- 41 R184: a payload block that does not fit fails PACK before it writes anything. -/
def Obligations.PackOverflow : Prop :=
  ∀ (s : State) (c : Bits), s.inLen.toNat ≤ s.params.inCap → s.tableValid = true →
    (∀ i, i < s.inLen.toNat → s.codeLenOf (s.inByte i) ≠ 0) → c = (s.inBytes 0 s.inLen.toNat).flatMap s.code →
    s.params.outCap < s.outLen.toNat + 1 + ceil8 c.length →
    exec .pack s = .next (afterError s 7 0 (BitVec.ofNat 32 (s.outLen.toNat + 1 + ceil8 c.length)))

/-! ### PARSE_EXT, PARSE_TABLE, UNPACK -/

/-- 42 R217, R218: PARSE_EXT copies the extension, zero-fills EXT past it, advances RD_PTR, and changes nothing else; a
missing length byte or too few extension bytes fail it and change nothing but STATUS and ERR_INFO. -/
def Obligations.ParseExtResult : Prop :=
  ∀ (s : State) (p l : Nat), s.inLen.toNat ≤ s.params.inCap → s.rdPtr.toNat = p → (s.inByte p).toNat = l →
    (p < s.inLen.toNat → p + 1 + l ≤ s.inLen.toNat →
      ∃ t, exec .parseExt s = .next t ∧
        t.extLen.toNat = l ∧ t.rdPtr.toNat = p + 1 + l ∧
        (∀ j, j < l → t.extByte j = s.inByte (p + 1 + j)) ∧ (∀ j, l ≤ j → j < 255 → t.extByte j = 0) ∧
        (∀ a, ¬ (extBase ≤ a ∧ a < extBase + 255) → t.ramByte a = s.ramByte a) ∧
        t = { afterSuccess s with extLen := t.extLen, rdPtr := t.rdPtr, mem := t.mem }) ∧
    (p = s.inLen.toNat ∨ (p < s.inLen.toNat ∧ s.inLen.toNat < p + 1 + l) →
      exec .parseExt s = .next (afterError s 8 1 s.rdPtr))

/-- 42 R220–R222, R240: PARSE_TABLE accepts every well-formed table block, whatever its padding bits; the codes, ORDER,
NSYM, MAXLEN and RD_PTR it leaves, and nothing else. -/
def Obligations.ParseTableResult : Prop :=
  ∀ (s : State) (es : List (Byte × Bits)) (p q : Nat), s.inLen.toNat ≤ s.params.inCap → s.rdPtr.toNat = p →
    p < s.inLen.toNat → Entries es → (s.inByte p).toNat = es.length - 1 → entriesAt s (p + 1) es q →
    q ≤ s.inLen.toNat →
    ∃ t, exec .parseTable s = .next t ∧ Table t ∧ entriesOf t = es ∧
      (∀ b, t.codeLenOf b ≠ 0 → b ∈ es.map Prod.fst) ∧ t.nsym.toNat = es.length ∧ t.rdPtr.toNat = q ∧
      t = { afterSuccess s with
        codeLen := t.codeLen, codeBits := t.codeBits, order := t.order, nsym := t.nsym, maxLen := t.maxLen,
        rdPtr := t.rdPtr, tableValid := true, treeValid := false }

/-- 42 R220, R223–R225, 60 R272: a missing count byte (RD_PTR = IN_LEN) fails with TABLE_TRUNCATED at RD_PTR; then the
checks of the entry at `q`, after the good entries `es`, in their order; a failure changes nothing but STATUS and
ERR_INFO. -/
def Obligations.ParseTableRejects : Prop :=
  (∀ s : State, s.inLen.toNat ≤ s.params.inCap → s.rdPtr = s.inLen →
    exec .parseTable s = .next (afterError s 8 2 s.rdPtr)) ∧
  ∀ (s : State) (es : List (Byte × Bits)) (p q n : Nat), s.inLen.toNat ≤ s.params.inCap → s.rdPtr.toNat = p →
    p < s.inLen.toNat → (es = [] ∨ Entries es) → es.length ≤ (s.inByte p).toNat → entriesAt s (p + 1) es q →
    q ≤ s.inLen.toNat → (s.inByte (q + 1)).toNat = n →
    (s.inLen.toNat < q + 2 → exec .parseTable s = .next (afterError s 8 2 s.inLen)) ∧
    (q + 2 ≤ s.inLen.toNat → n = 0 → exec .parseTable s = .next (afterError s 8 3 (BitVec.ofNat 32 (q + 1)))) ∧
    (q + 2 ≤ s.inLen.toNat → n ≠ 0 → s.inLen.toNat < q + 2 + ceil8 n →
      exec .parseTable s = .next (afterError s 8 2 s.inLen)) ∧
    (n ≠ 0 → q + 2 + ceil8 n ≤ s.inLen.toNat → s.inByte q ∈ es.map Prod.fst →
      exec .parseTable s = .next (afterError s 8 4 (BitVec.ofNat 32 q))) ∧
    (n ≠ 0 → q + 2 + ceil8 n ≤ s.inLen.toNat → s.inByte q ∉ es.map Prod.fst →
      (∃ e ∈ es, e.2 <+: (bitsMSB (s.inBytes (q + 2) (ceil8 n))).take n ∨
        (bitsMSB (s.inBytes (q + 2) (ceil8 n))).take n <+: e.2) →
      exec .parseTable s = .next (afterError s 8 5 (BitVec.ofNat 32 q)))

/-- 41 R186–R190, R192: UNPACK of a payload that is the concatenated codes of `syms`, whatever its discarded bits: the
symbols appended, the registers it leaves, and nothing else. -/
def Obligations.UnpackResult : Prop :=
  ∀ (s : State) (p : Nat) (syms : List Byte), s.params.wellFormed = true → s.inLen.toNat ≤ s.params.inCap →
    s.tableValid = true → Table s → s.rdPtr.toNat = p → (∀ b ∈ syms, s.codeLenOf b ≠ 0) →
    PayloadAt s p (syms.flatMap s.code) → s.outLen.toNat + syms.length ≤ s.params.outCap →
    ∃ t, exec .unpack s = .next t ∧
      (∀ j (h : j < syms.length), t.outByte (s.outLen.toNat + j) = syms[j]) ∧
      t.outLen.toNat = s.outLen.toNat + syms.length ∧ t.rdPtr = s.inLen ∧ t.payOff.toNat = p ∧
      t.sigBits.toNat = (s.inByte p).toNat ∧ t.payBits.toNat = payloadBits s p ∧
      (∀ a, ¬ (outBase + s.outLen.toNat ≤ a ∧ a < outBase + s.outLen.toNat + syms.length) →
        t.ramByte a = s.ramByte a) ∧
      t = { afterSuccess s with
        outLen := t.outLen, mem := t.mem, rdPtr := t.rdPtr, payOff := t.payOff, sigBits := t.sigBits,
        payBits := t.payBits }

/-- 41 R186–R188: the header errors of UNPACK, in their order; nothing but STATUS and ERR_INFO changes. -/
def Obligations.UnpackBadHeader : Prop :=
  ∀ (s : State) (p k : Nat), s.inLen.toNat ≤ s.params.inCap → s.tableValid = true → s.rdPtr.toNat = p →
    (s.inByte p).toNat = k →
    (p = s.inLen.toNat → exec .unpack s = .next (afterError s 8 6 s.rdPtr)) ∧
    (p < s.inLen.toNat → (k = 0 ∨ 8 < k) → exec .unpack s = .next (afterError s 8 7 s.rdPtr)) ∧
    (p + 1 = s.inLen.toNat → 1 ≤ k → k < 8 → exec .unpack s = .next (afterError s 8 8 s.rdPtr))

/-- 41 R190–R193: after the codes of `syms`, bits that match no code within MAXLEN bits fail with BAD_CODEWORD at the bit
that completes MAXLEN, bits that end inside a code fail with TRAILING_BITS, and a symbol that does not fit fails with
OUT_OVERFLOW at the bit that completes it. In each case the symbols of `syms` stand in OUT_BUF from OUT_LEN up, and no
other byte, register or table changes but STATUS and ERR_INFO. -/
def Obligations.UnpackStops : Prop :=
  ∀ (s : State) (p : Nat) (syms : List Byte) (more : Bits), s.inLen.toNat ≤ s.params.inCap → s.params.wellFormed = true →
    s.tableValid = true → Table s → s.rdPtr.toNat = p → (∀ b ∈ syms, s.codeLenOf b ≠ 0) →
    PayloadAt s p (syms.flatMap s.code ++ more) → s.outLen.toNat + syms.length ≤ s.params.outCap →
    ∃ t, exec .unpack s = .next t ∧
      (s.maxLen.toNat ≤ more.length → (∀ b, s.codeLenOf b ≠ 0 → ¬ s.code b <+: more) →
        t = { afterError s 8 9 (BitVec.ofNat 32 ((syms.flatMap s.code).length + s.maxLen.toNat - 1)) with
          mem := t.mem } ∧ OutputStored s t syms) ∧
      (more ≠ [] → more.length < s.maxLen.toNat → (∀ b, s.codeLenOf b ≠ 0 → ¬ s.code b <+: more) →
        t = { afterError s 8 10 (BitVec.ofNat 32 (payloadBits s p)) with mem := t.mem } ∧ OutputStored s t syms) ∧
      (∀ b, s.outLen.toNat + syms.length = s.params.outCap → s.codeLenOf b ≠ 0 → s.code b <+: more →
        t = { afterError s 7 0 (BitVec.ofNat 32 ((syms.flatMap s.code).length + (s.codeLenOf b).toNat - 1)) with
          mem := t.mem } ∧ OutputStored s t syms)

/-- 41 R192: whatever makes UNPACK fail, OUT_LEN, RD_PTR, SIGBITS, PAY_BITS, PAY_OFF and every other register and table
are as before, and no byte changes but OUT_BUF bytes from OUT_LEN up. -/
def Obligations.UnpackFailureLeaves : Prop :=
  ∀ s t : State, exec .unpack s = .next t → t.error = true →
    t = { afterError s t.errCode t.errSub t.errInfo with mem := t.mem } ∧
    ∀ a, (a < outBase + s.outLen.toNat ∨ outBase + s.params.outCap ≤ a) → t.ramByte a = s.ramByte a

/-! ### COMPRESS, DECOMPRESS -/

/-- 42 R232: COMPRESS of an empty input writes the extension block and no other, and leaves no tree and no table. -/
def Obligations.CompressEmptyInput : Prop :=
  ∀ s : State, s.params.wellFormed = true → s.inLen = 0 → 1 + s.extLen.toNat ≤ s.params.outCap →
    ∃ t, exec .compress s = .next t ∧
      t.outByte 0 = s.extLen ∧ (∀ j, j < s.extLen.toNat → t.outByte (1 + j) = s.extByte j) ∧
      t.outLen.toNat = 1 + s.extLen.toNat ∧ (∀ b, t.freqOf b = 0) ∧
      (∀ a, ¬ (outBase ≤ a ∧ a < outBase + 1 + s.extLen.toNat) → t.ramByte a = s.ramByte a) ∧
      t = { afterSuccess s with
        freq := t.freq, nsym := 0, treeValid := false, tableValid := false, outLen := t.outLen, mem := t.mem }

/-- 42 R230, R231, 30 R120–R124: COMPRESS of a non-empty input. It ends with success when OUT_BUF holds the longest
container the input could need, and otherwise can fail only with OUT_OVERFLOW, for a length above OUT_CAP (the spec's own
inference, R230). Whenever it succeeds: OUT_BUF is the extension block, the table block and the payload block of the input
under the table it leaves; FREQ counts the input, the tree is BUILD's tree of FREQ, the table is GENCODE's table of that
tree, and the symbols with codes are those of the input; and nothing else changes. (The shape of the tree and the order of
the codes are the spec's own inferences, as in BuildResult and GencodeResult.) -/
def Obligations.CompressResult : Prop :=
  ∀ s : State, s.params.wellFormed = true → 0 < s.inLen.toNat → s.inLen.toNat ≤ s.params.inCap →
    ∃ t, exec .compress s = .next t ∧
      (1 + s.extLen.toNat + (1 + 256 * 34) + 1 + 32 * s.inLen.toNat ≤ s.params.outCap → t.error = false) ∧
      (t.error = true → t.errCode = 7 ∧ t.errSub = 0 ∧ s.params.outCap < t.errInfo.toNat) ∧
      (t.error = false → ∃ out,
        out = (s.extLen :: s.extBytes s.extLen.toNat) ++ blockOf (entriesOf t) ++
          payloadOf ((s.inBytes 0 s.inLen.toNat).flatMap t.code) ∧
        t.outLen.toNat = out.length ∧ (∀ j (h : j < out.length), t.outByte j = out[j]) ∧
        (∀ b, (t.freqOf b).toNat = (s.inBytes 0 s.inLen.toNat).count b) ∧ t.nsym.toNat = presentCount t ∧
        Tree t ∧ LeavesOfFreq t ∧ MergesTwoLeast t ∧ Table t ∧ CodesOfTree t ∧
        (∀ b, t.codeLenOf b ≠ 0 ↔ b ∈ s.inBytes 0 s.inLen.toNat) ∧
        t.payOff.toNat = 1 + s.extLen.toNat + (blockOf (entriesOf t)).length ∧
        t.payBits.toNat = ((s.inBytes 0 s.inLen.toNat).flatMap t.code).length ∧
        t.sigBits.toNat = (if t.payBits.toNat % 8 = 0 then 8 else t.payBits.toNat % 8) ∧
        (∀ a, ¬ (outBase ≤ a ∧ a < outBase + out.length) → t.ramByte a = s.ramByte a) ∧
        t = { afterSuccess s with
          freq := t.freq, nodes := t.nodes, nsym := t.nsym, root := t.root, nnodes := t.nnodes,
          codeLen := t.codeLen, codeBits := t.codeBits, order := t.order, maxLen := t.maxLen,
          treeValid := true, tableValid := true, outLen := t.outLen, mem := t.mem,
          payOff := t.payOff, sigBits := t.sigBits, payBits := t.payBits })

/-- 42 R238: DECOMPRESS of a container that is only an extension block. -/
def Obligations.DecompressEmptyFile : Prop :=
  ∀ s : State, s.inLen.toNat ≤ s.params.inCap → s.inLen.toNat = 1 + (s.inByte 0).toNat →
    ∃ t, exec .decompress s = .next t ∧
      t.extLen = s.inByte 0 ∧ (∀ j, j < (s.inByte 0).toNat → t.extByte j = s.inByte (1 + j)) ∧
      (∀ j, (s.inByte 0).toNat ≤ j → j < 255 → t.extByte j = 0) ∧
      (∀ a, ¬ (extBase ≤ a ∧ a < extBase + 255) → t.ramByte a = s.ramByte a) ∧
      t = { afterSuccess s with
        outLen := 0, rdPtr := s.inLen, treeValid := false, tableValid := false, nsym := 0, maxLen := 0,
        extLen := t.extLen, mem := t.mem }

/-- 42 R236, R237, R240: DECOMPRESS of any container of well-formed blocks, whatever encoder made it, gives the symbols
whose codes its payload holds, the extension and the table, and leaves FREQ and the node store alone. -/
def Obligations.DecompressResult : Prop :=
  ∀ (s : State) (es : List (Byte × Bits)) (syms : List Byte) (q : Nat), s.params.wellFormed = true →
    s.inLen.toNat ≤ s.params.inCap → Entries es →
    (s.inByte (1 + (s.inByte 0).toNat)).toNat = es.length - 1 → entriesAt s (2 + (s.inByte 0).toNat) es q →
    (∀ b ∈ syms, b ∈ es.map Prod.fst) →
    PayloadAt s q (syms.flatMap fun b => ((es.find? fun e => e.1 == b).map Prod.snd).getD []) →
    syms.length ≤ s.params.outCap →
    ∃ t, exec .decompress s = .next t ∧ Table t ∧ entriesOf t = es ∧
      t.outLen.toNat = syms.length ∧ (∀ j (h : j < syms.length), t.outByte j = syms[j]) ∧
      t.extLen = s.inByte 0 ∧ (∀ j, j < (s.inByte 0).toNat → t.extByte j = s.inByte (1 + j)) ∧
      (∀ j, (s.inByte 0).toNat ≤ j → j < 255 → t.extByte j = 0) ∧
      t.rdPtr = s.inLen ∧ t.payOff.toNat = q ∧ t.sigBits.toNat = (s.inByte q).toNat ∧
      t.payBits.toNat = payloadBits s q ∧
      (∀ a, ¬ (extBase ≤ a ∧ a < extBase + 255) → ¬ (outBase ≤ a ∧ a < outBase + syms.length) →
        t.ramByte a = s.ramByte a) ∧
      t = { afterSuccess s with
        outLen := t.outLen, mem := t.mem, rdPtr := t.rdPtr, extLen := t.extLen, codeLen := t.codeLen,
        codeBits := t.codeBits, order := t.order, nsym := t.nsym, maxLen := t.maxLen, payOff := t.payOff,
        sigBits := t.sigBits, payBits := t.payBits, treeValid := false, tableValid := true }

/-- 42 R239: the container round trip: when COMPRESS succeeds and its output is the input of a machine whose OUT_BUF
holds the original, DECOMPRESS there gives the original bytes and the extension. (The source's sentence in 42 R239; its
HUFCORE form is the spec's own inference from R230 and R236.) -/
def Obligations.ContainerRoundTrip : Prop :=
  ∀ s t u : State, s.params.wellFormed = true → u.params.wellFormed = true →
    exec .compress s = .next t → t.error = false →
    u.inLen = t.outLen → u.inLen.toNat ≤ u.params.inCap → s.inLen.toNat ≤ u.params.outCap →
    (∀ j, j < t.outLen.toNat → u.inByte j = t.outByte j) →
    ∃ v, exec .decompress u = .next v ∧ v.error = false ∧ v.outLen = s.inLen ∧
      (∀ j, j < s.inLen.toNat → v.outByte j = s.inByte j) ∧
      v.extLen = s.extLen ∧ (∀ j, j < s.extLen.toNat → v.extByte j = s.extByte j)

/-- 42 R230, R231, R233, R236: whatever makes a whole-run command fail, it ends with OUT_LEN = 0. Past its own IN_LEN
check it clears OUT_LEN and the valid flags (DECOMPRESS also RD_PTR) and runs its primitives in order up to the first that
fails. It ends as the last of them left the machine, the failing one with its ERR_CODE, ERR_SUB, ERR_INFO, registers and
tables, but then with OUT_LEN = 0; DECOMPRESS of a container that is only an extension block ends with
NSYM = MAXLEN = 0. (That OUT_LEN = 0 holds where the command's own IN_LEN check fails too is the model's reading of 42 R233
over the general sentence of 40 R150, log 9.) -/
def Obligations.WholeRunFailureDropsOutput : Prop :=
  (∀ s : State, s.inLen.toNat ≤ s.params.inCap →
    ∃ u, Runs ([.count, .emitExt] ++ if s.inLen = 0 then [] else [.build, .gencode, .emitTable, .pack])
        { s with outLen := 0, treeValid := false, tableValid := false } u ∧
      exec .compress s = .next (if u.error then { u with outLen := 0 } else u)) ∧
  (∀ s : State, s.inLen.toNat ≤ s.params.inCap →
    ∃ u v, exec .parseExt { s with outLen := 0, rdPtr := 0, treeValid := false, tableValid := false } = .next u ∧
      (if u.error then v = u
        else if u.rdPtr = s.inLen then v = { u with nsym := 0, maxLen := 0 }
        else Runs [.parseTable, .unpack] u v) ∧
      exec .decompress s = .next (if v.error then { v with outLen := 0 } else v)) ∧
  ∀ (i : Instr) (s t : State), i = .compress ∨ i = .decompress → exec i s = .next t → t.error = true → t.outLen = 0

/-! ### Rules over all commands -/

/-- 60 R260–R263, 10 R37, R38: every command ends, with BUSY 0, DONE 1, a listed error pair, and ERROR exactly when the
code is not NONE; on success ERR_INFO is 0. -/
def Obligations.EveryCommandEnds : Prop :=
  ∀ (i : Instr) (s : State), ∃ t, exec i s = .next t ∧ t.busy = false ∧ t.done = true ∧
    (t.errCode, t.errSub) ∈ errorPairs ∧ (t.error = true ↔ t.errCode ≠ 0) ∧ (t.error = false → t.errInfo = 0)

/-- 10 R45, R44, R40, 20 R86: no command changes IN_BUF, IN_LEN, IRQ_EN, OVERRUN, the parameters or the port. -/
def Obligations.CommandsKeepHostInputs : Prop :=
  ∀ (i : Instr) (s t : State), exec i s = .next t →
    t.inLen = s.inLen ∧ t.irqEn = s.irqEn ∧ t.overrun = s.overrun ∧ t.params = s.params ∧ t.agenda = s.agenda ∧
    t.response = s.response ∧ t.draws = s.draws ∧ t.epoch = s.epoch ∧
    (s.params.wellFormed = true → ∀ j, j < s.params.inCap → t.inByte j = s.inByte j)

/-- 30 R114: which commands write which table, and EXT. -/
def Obligations.TablesHaveTheirWriters : Prop :=
  ∀ (i : Instr) (s t : State), exec i s = .next t →
    (i ∉ [Instr.count, .clear, .compress] → t.freq = s.freq) ∧
    (i ∉ [Instr.build, .clear, .compress] → t.nodes = s.nodes ∧ t.root = s.root ∧ t.nnodes = s.nnodes) ∧
    (i ∉ [Instr.gencode, .parseTable, .clear, .compress, .decompress] →
      t.codeLen = s.codeLen ∧ t.codeBits = s.codeBits ∧ t.order = s.order ∧ t.maxLen = s.maxLen) ∧
    (i ∉ [Instr.pack, .unpack, .clear, .compress, .decompress] →
      t.sigBits = s.sigBits ∧ t.payBits = s.payBits ∧ t.payOff = s.payOff) ∧
    (i ∉ [Instr.parseExt, .decompress] → t.extLen = s.extLen ∧ ∀ j, j < 255 → t.extByte j = s.extByte j)

/-- 20 R87: a command writes OUT_BUF only from OUT_LEN at its start (0 for COMPRESS and DECOMPRESS) up to OUT_CAP. -/
def Obligations.OutputOnlyFromOutLen : Prop :=
  ∀ (i : Instr) (s t : State) (j : Nat), exec i s = .next t →
    (j < (if i = .compress ∨ i = .decompress then 0 else s.outLen.toNat) ∨ s.params.outCap ≤ j) →
    t.outByte j = s.outByte j

/-- 40 R150, 60 R269: a failing primitive but UNPACK changes nothing but STATUS and ERR_INFO. -/
def Obligations.FailedPrimitiveKeepsState : Prop :=
  ∀ (i : Instr) (s t : State), i ∉ [Instr.unpack, .compress, .decompress] → exec i s = .next t → t.error = true →
    t = afterError s t.errCode t.errSub t.errInfo

/-! ### Invariants of every step -/

/-- 10 R46, 20 R80, R81: every step keeps the buffers' memory canonical and inside the buffers, OUT_LEN within OUT_CAP,
and the parameters. -/
def Obligations.StepKeepsBuffers : Prop :=
  ∀ s t : State, s.params.wellFormed = true → MemOk s → OutLenOk s → step s = .next t →
    t.params = s.params ∧ MemOk t ∧ OutLenOk t

/-- 10 R39, R41, 60 R263, 70 R302: every step keeps ERR_CODE and ERR_SUB a listed pair, ERROR with a code, and the
outcome flags 0 while BUSY is 1. -/
def Obligations.StepKeepsErrorReport : Prop :=
  ∀ s t : State, ErrorOk s → BusyOk s → step s = .next t → ErrorOk t ∧ BusyOk t

/-- 10 R61: every step keeps that while TREE_VALID = 1 the node store holds a tree. (The tree's precise shape is the spec's
own inference from 40 R158.) -/
def Obligations.StepKeepsTree : Prop :=
  ∀ s t : State, TreeOk s → step s = .next t → TreeOk t

/-- Every step keeps that while TABLE_VALID = 1 there is a prefix-free code table, its padding as 10 R63 and R64 say. (The
invariant is 10 R65, which the spec marks as its own inference from 40 R165–R168 and 42 R222.) -/
def Obligations.StepKeepsTable : Prop :=
  ∀ s t : State, TreeOk s → TableOk s → step s = .next t → TableOk t

/-- 10 R70: the reset state meets the invariants (with the parameters of log 2). -/
def Obligations.ResetMeetsInvariants : Prop := Inv State.reset
end

