-- ==== Sys2Proof/Laws/Bits.lean ====
section
/-! SUPPORT. The laws of bit strings, codes and blocks: their lengths, and that unpacking undoes packing. -/

namespace Sys2Proof.Machine

@[simp] theorem State.inBytes_length (s : State) (p n : Nat) : (s.inBytes p n).length = n := by
  simp [State.inBytes]

@[simp] theorem State.extBytes_length (s : State) (n : Nat) : (s.extBytes n).length = n := by
  simp [State.extBytes]

@[simp] theorem octet_length (c : Bits) (j : Nat) : (octet c j).length = 8 := by simp [octet]

@[simp] theorem packMSB_length (c : Bits) : (packMSB c).length = ceil8 c.length := by simp [packMSB]

@[simp] theorem byteBits_length (b : Byte) : (byteBits b).length = 8 := by simp [byteBits]

@[simp] theorem bitsMSB_length (bs : List Byte) : (bitsMSB bs).length = 8 * bs.length := by
  induction bs with
  | nil => rfl
  | cons b rest ih =>
    have h : bitsMSB (b :: rest) = byteBits b ++ bitsMSB rest := rfl
    rw [h, List.length_append, ih]
    simp; omega

@[simp] theorem State.code_length (s : State) (b : Byte) : (s.code b).length = (s.codeLenOf b).toNat := by
  simp [State.code]

theorem State.payload_length (s : State) (bs : List Byte) : (s.payload bs).length = s.payloadLength bs := by
  simp [State.payload, State.payloadLength, List.length_flatMap]

@[simp] theorem State.extBlock_length (s : State) : s.extBlock.length = 1 + s.extLen.toNat := by
  simp [State.extBlock]; omega

@[simp] theorem State.tableEntry_length (s : State) (b : Byte) :
    (s.tableEntry b).length = 2 + ceil8 (s.codeLenOf b).toNat := by
  simp [State.tableEntry]; omega

/-- The size EMIT_TABLE checks is the length of what it emits (42 R213). -/
theorem State.tableBlock_length (s : State) : s.tableBlock.length = s.tableSize := by
  simp [State.tableBlock, State.tableSize, List.length_flatMap]; omega

@[simp] theorem tabulate_getElem {α : Type} (n : Nat) (f : Nat → α) (i : Nat) (h : i < n) :
    (tabulate n f)[i] = f i := by
  simp [tabulate]

/-- A table's entries with their indices, in rising order. -/
theorem zipIdx_toList {α : Type} (v : Vector α 256) (d : α) :
    v.toList.zipIdx = (List.range 256).map fun i => (v.getD i d, i) := by
  apply List.ext_getElem
  · simp
  · intro i h1 h2
    have h : i < 256 := by simpa using h2
    simp [Vector.getD, h]

/-- The present symbols are the indices of the entries that are not 0, rising. -/
theorem presentSymbols_eq (freq : Vector Word 256) :
    presentSymbols freq = (List.range 256).filter fun b => freq.getD b 0 != 0 := by
  simp [presentSymbols, zipIdx_toList freq 0, List.filter_map, Function.comp_def]

/-- The search for a code is a search over the symbols (41 R190). -/
theorem State.lookup_eq (s : State) (acc : Bits) :
    s.lookup acc = symbols.find? fun b => (s.codeLenOf b).toNat == acc.length && s.code b == acc := by
  have key : ∀ l : List Nat, (∀ i ∈ l, i < 256) →
      (((l.map fun i => (s.codeLen.getD i 0, i)).find? fun e =>
          e.1.toNat == acc.length && s.code (BitVec.ofNat 8 e.2) == acc).map fun e => BitVec.ofNat 8 e.2) =
        (l.map (BitVec.ofNat 8)).find? fun b => (s.codeLenOf b).toNat == acc.length && s.code b == acc := by
    intro l hl
    induction l with
    | nil => rfl
    | cons i rest ih =>
      have hi : i < 256 := hl i (by simp)
      have e : s.codeLen.getD i 0 = s.codeLenOf (BitVec.ofNat 8 i) := by
        simp [State.codeLenOf, Vector.getD, hi, Nat.mod_eq_of_lt hi]
      simp only [List.map_cons, List.find?_cons, e]
      split <;> simp_all
  rw [State.lookup, zipIdx_toList s.codeLen 0, symbols]
  exact key _ (by simp)

/-- FREQ after a tally (40 R152). -/
theorem tally_get (bs : List Byte) (b : Byte) : (tally bs)[b.toNat]'b.isLt = BitVec.ofNat 32 (bs.count b) := by
  simp [tally]

theorem bitsVal_append_one (c : Bits) (b : Bool) : bitsVal (c ++ [b]) = 2 * bitsVal c + b.toNat := by
  simp [bitsVal]

theorem bitsVal_lt (c : Bits) : bitsVal c < 2 ^ c.length := by
  induction c using List.reverseRecOn with
  | nil => simp [bitsVal]
  | append_singleton c b ih =>
    rw [bitsVal_append_one, List.length_append, List.length_singleton, Nat.pow_succ]
    cases b <;> simp <;> omega

/-- Digit k, counted from the first, of the number a bit string writes. -/
theorem bitsVal_testBit (d : Bits) (k : Nat) (h : k < d.length) :
    (bitsVal d).testBit (d.length - 1 - k) = d[k] := by
  induction d using List.reverseRecOn with
  | nil => simp at h
  | append_singleton c b ih =>
    rw [bitsVal_append_one]
    simp only [List.length_append, List.length_singleton] at h ⊢
    by_cases hk : k = c.length
    · subst hk
      have h0 : c.length + 1 - 1 - c.length = 0 := by omega
      rw [h0, Nat.testBit_zero]
      cases b <;> simp
    · have hk' : k < c.length := by omega
      have h1 : c.length + 1 - 1 - k = (c.length - 1 - k) + 1 := by omega
      rw [h1, Nat.testBit_succ]
      have h2 : (2 * bitsVal c + b.toNat) / 2 = bitsVal c := by cases b <;> simp; omega
      rw [h2, ih hk']
      simp [List.getElem_append_left hk']

/-- The bits of a CODE_BITS entry: the code, then zeros (10 R63). -/
theorem codeWord_getMsbD (c : Bits) (h : c.length ≤ 256) (k : Nat) :
    (codeWord c).getMsbD k = c.getD k false := by
  have hlt : bitsVal c * 2 ^ (256 - c.length) < 2 ^ 256 := by
    calc bitsVal c * 2 ^ (256 - c.length) < 2 ^ c.length * 2 ^ (256 - c.length) :=
          Nat.mul_lt_mul_of_pos_right (bitsVal_lt c) (by positivity)
      _ = 2 ^ 256 := by rw [← Nat.pow_add]; congr 1; omega
  by_cases hk : k < 256
  · simp only [codeWord, BitVec.getMsbD, hk, decide_true, Bool.true_and, BitVec.getLsbD_ofNat]
    have h1 : 256 - 1 - k < 256 := by omega
    rw [decide_eq_true h1, Bool.true_and, Nat.testBit_mul_two_pow]
    by_cases hc : k < c.length
    · have h2 : 256 - c.length ≤ 256 - 1 - k := by omega
      have h3 : 256 - 1 - k - (256 - c.length) = c.length - 1 - k := by omega
      rw [decide_eq_true h2, Bool.true_and, h3, bitsVal_testBit c k hc]
      simp [List.getD_eq_getElem?_getD, hc]
    · have h2 : ¬ 256 - c.length ≤ 256 - 1 - k := by omega
      rw [decide_eq_false h2, Bool.false_and]
      simp [List.getD_eq_getElem?_getD, Nat.not_lt.1 hc]
  · have hc : c.length ≤ k := by omega
    simp [BitVec.getMsbD, hk, List.getD_eq_getElem?_getD, hc]

/-- The bits of one packed byte are the octet packed into it (00 R14). -/
theorem byteBits_octet (c : Bits) (j : Nat) : byteBits (BitVec.ofNat 8 (bitsVal (octet c j))) = octet c j := by
  apply List.ext_getElem (by simp)
  intro k h1 h2
  have hk : k < 8 := by simpa using h1
  have h3 := bitsVal_testBit (octet c j) k (by simpa using hk)
  simp only [octet_length] at h3
  have h7 : 7 - k < 8 := by omega
  rw [← h3]
  simp [byteBits, BitVec.getMsbD, hk]
  rw [BitVec.getLsbD_ofNat, decide_eq_true h7, Bool.true_and]

/-- Unpacking the packed bytes gives the bit string and its padding of zeros (00 R14). -/
theorem bitsMSB_packMSB_getElem? (c : Bits) (k : Nat) (h : k < 8 * ceil8 c.length) :
    (bitsMSB (packMSB c))[k]? = some (c.getD k false) := by
  have aux : ∀ n, k < 8 * n →
      (bitsMSB ((List.range n).map fun j => BitVec.ofNat 8 (bitsVal (octet c j))))[k]? = some (c.getD k false) := by
    intro n
    induction n with
    | zero => intro h; omega
    | succ n ih =>
      intro hk
      have hsplit : bitsMSB ((List.range (n + 1)).map fun j => BitVec.ofNat 8 (bitsVal (octet c j))) =
          bitsMSB ((List.range n).map fun j => BitVec.ofNat 8 (bitsVal (octet c j))) ++ octet c n := by
        simp [List.range_succ, bitsMSB, byteBits_octet]
      rw [hsplit]
      by_cases hn : k < 8 * n
      · rw [List.getElem?_append_left (by simpa using hn)]
        exact ih hn
      · rw [List.getElem?_append_right (by simpa using Nat.not_lt.1 hn)]
        have h8 : k - 8 * n < 8 := by omega
        have hkk : 8 * n + (k - 8 * n) = k := by omega
        simp [octet, h8, hkk]
  exact aux _ h

/-- Unpacking undoes packing (00 R14). -/
theorem bitsMSB_packMSB_take (c : Bits) : (bitsMSB (packMSB c)).take c.length = c := by
  have hle : c.length ≤ 8 * ceil8 c.length := by simp only [ceil8]; omega
  apply List.ext_getElem?
  intro k
  by_cases hk : k < c.length
  · rw [List.getElem?_take_of_lt hk, bitsMSB_packMSB_getElem? c k (by omega)]
    simp [List.getD_eq_getElem?_getD, hk]
  · rw [List.getElem?_eq_none (by simp; omega), List.getElem?_eq_none (by omega)]

end Sys2Proof.Machine
end

