-- ==== Sys2Proof/Laws/State.lean ====
section
/-! SUPPORT. What each named update of State does to each field: one lemma per field per update. -/

namespace Sys2Proof.Machine

/-! ### `State.start` -/

@[simp] theorem State.start_params (s : State) : (s.start).params = s.params := rfl
@[simp] theorem State.start_phase (s : State) : (s.start).phase = s.phase := rfl
@[simp] theorem State.start_done (s : State) : (s.start).done = false := rfl
@[simp] theorem State.start_error (s : State) : (s.start).error = false := rfl
@[simp] theorem State.start_overrun (s : State) : (s.start).overrun = s.overrun := rfl
@[simp] theorem State.start_errCode (s : State) : (s.start).errCode = 0 := rfl
@[simp] theorem State.start_errSub (s : State) : (s.start).errSub = 0 := rfl
@[simp] theorem State.start_treeValid (s : State) : (s.start).treeValid = s.treeValid := rfl
@[simp] theorem State.start_tableValid (s : State) : (s.start).tableValid = s.tableValid := rfl
@[simp] theorem State.start_irqEn (s : State) : (s.start).irqEn = s.irqEn := rfl
@[simp] theorem State.start_inLen (s : State) : (s.start).inLen = s.inLen := rfl
@[simp] theorem State.start_outLen (s : State) : (s.start).outLen = s.outLen := rfl
@[simp] theorem State.start_rdPtr (s : State) : (s.start).rdPtr = s.rdPtr := rfl
@[simp] theorem State.start_extLen (s : State) : (s.start).extLen = s.extLen := rfl
@[simp] theorem State.start_nsym (s : State) : (s.start).nsym = s.nsym := rfl
@[simp] theorem State.start_root (s : State) : (s.start).root = s.root := rfl
@[simp] theorem State.start_nnodes (s : State) : (s.start).nnodes = s.nnodes := rfl
@[simp] theorem State.start_maxLen (s : State) : (s.start).maxLen = s.maxLen := rfl
@[simp] theorem State.start_sigBits (s : State) : (s.start).sigBits = s.sigBits := rfl
@[simp] theorem State.start_payBits (s : State) : (s.start).payBits = s.payBits := rfl
@[simp] theorem State.start_payOff (s : State) : (s.start).payOff = s.payOff := rfl
@[simp] theorem State.start_errInfo (s : State) : (s.start).errInfo = 0 := rfl
@[simp] theorem State.start_freq (s : State) : (s.start).freq = s.freq := rfl
@[simp] theorem State.start_nodes (s : State) : (s.start).nodes = s.nodes := rfl
@[simp] theorem State.start_codeLen (s : State) : (s.start).codeLen = s.codeLen := rfl
@[simp] theorem State.start_codeBits (s : State) : (s.start).codeBits = s.codeBits := rfl
@[simp] theorem State.start_order (s : State) : (s.start).order = s.order := rfl
@[simp] theorem State.start_mem (s : State) : (s.start).mem = s.mem := rfl
@[simp] theorem State.start_agenda (s : State) : (s.start).agenda = s.agenda := rfl
@[simp] theorem State.start_response (s : State) : (s.start).response = s.response := rfl
@[simp] theorem State.start_draws (s : State) : (s.start).draws = s.draws := rfl
@[simp] theorem State.start_epoch (s : State) : (s.start).epoch = s.epoch := rfl

/-! ### `State.finish` -/

@[simp] theorem State.finish_params (s : State) : (s.finish).params = s.params := rfl
@[simp] theorem State.finish_phase (s : State) : (s.finish).phase = .idle := rfl
@[simp] theorem State.finish_done (s : State) : (s.finish).done = true := rfl
@[simp] theorem State.finish_error (s : State) : (s.finish).error = s.error := rfl
@[simp] theorem State.finish_overrun (s : State) : (s.finish).overrun = s.overrun := rfl
@[simp] theorem State.finish_errCode (s : State) : (s.finish).errCode = s.errCode := rfl
@[simp] theorem State.finish_errSub (s : State) : (s.finish).errSub = s.errSub := rfl
@[simp] theorem State.finish_treeValid (s : State) : (s.finish).treeValid = s.treeValid := rfl
@[simp] theorem State.finish_tableValid (s : State) : (s.finish).tableValid = s.tableValid := rfl
@[simp] theorem State.finish_irqEn (s : State) : (s.finish).irqEn = s.irqEn := rfl
@[simp] theorem State.finish_inLen (s : State) : (s.finish).inLen = s.inLen := rfl
@[simp] theorem State.finish_outLen (s : State) : (s.finish).outLen = s.outLen := rfl
@[simp] theorem State.finish_rdPtr (s : State) : (s.finish).rdPtr = s.rdPtr := rfl
@[simp] theorem State.finish_extLen (s : State) : (s.finish).extLen = s.extLen := rfl
@[simp] theorem State.finish_nsym (s : State) : (s.finish).nsym = s.nsym := rfl
@[simp] theorem State.finish_root (s : State) : (s.finish).root = s.root := rfl
@[simp] theorem State.finish_nnodes (s : State) : (s.finish).nnodes = s.nnodes := rfl
@[simp] theorem State.finish_maxLen (s : State) : (s.finish).maxLen = s.maxLen := rfl
@[simp] theorem State.finish_sigBits (s : State) : (s.finish).sigBits = s.sigBits := rfl
@[simp] theorem State.finish_payBits (s : State) : (s.finish).payBits = s.payBits := rfl
@[simp] theorem State.finish_payOff (s : State) : (s.finish).payOff = s.payOff := rfl
@[simp] theorem State.finish_errInfo (s : State) : (s.finish).errInfo = s.errInfo := rfl
@[simp] theorem State.finish_freq (s : State) : (s.finish).freq = s.freq := rfl
@[simp] theorem State.finish_nodes (s : State) : (s.finish).nodes = s.nodes := rfl
@[simp] theorem State.finish_codeLen (s : State) : (s.finish).codeLen = s.codeLen := rfl
@[simp] theorem State.finish_codeBits (s : State) : (s.finish).codeBits = s.codeBits := rfl
@[simp] theorem State.finish_order (s : State) : (s.finish).order = s.order := rfl
@[simp] theorem State.finish_mem (s : State) : (s.finish).mem = s.mem := rfl
@[simp] theorem State.finish_agenda (s : State) : (s.finish).agenda = s.agenda := rfl
@[simp] theorem State.finish_response (s : State) : (s.finish).response = s.response := rfl
@[simp] theorem State.finish_draws (s : State) : (s.finish).draws = s.draws := rfl
@[simp] theorem State.finish_epoch (s : State) : (s.finish).epoch = s.epoch := rfl

/-! ### `State.raiseErr` -/

@[simp] theorem State.raiseErr_params (s : State) (e : ErrKind) (info : Word) : (s.raiseErr e info).params = s.params := rfl
@[simp] theorem State.raiseErr_phase (s : State) (e : ErrKind) (info : Word) : (s.raiseErr e info).phase = .idle := rfl
@[simp] theorem State.raiseErr_done (s : State) (e : ErrKind) (info : Word) : (s.raiseErr e info).done = true := rfl
@[simp] theorem State.raiseErr_error (s : State) (e : ErrKind) (info : Word) : (s.raiseErr e info).error = true := rfl
@[simp] theorem State.raiseErr_overrun (s : State) (e : ErrKind) (info : Word) : (s.raiseErr e info).overrun = s.overrun := rfl
@[simp] theorem State.raiseErr_errCode (s : State) (e : ErrKind) (info : Word) : (s.raiseErr e info).errCode = e.code := rfl
@[simp] theorem State.raiseErr_errSub (s : State) (e : ErrKind) (info : Word) : (s.raiseErr e info).errSub = e.sub := rfl
@[simp] theorem State.raiseErr_treeValid (s : State) (e : ErrKind) (info : Word) : (s.raiseErr e info).treeValid = s.treeValid := rfl
@[simp] theorem State.raiseErr_tableValid (s : State) (e : ErrKind) (info : Word) : (s.raiseErr e info).tableValid = s.tableValid := rfl
@[simp] theorem State.raiseErr_irqEn (s : State) (e : ErrKind) (info : Word) : (s.raiseErr e info).irqEn = s.irqEn := rfl
@[simp] theorem State.raiseErr_inLen (s : State) (e : ErrKind) (info : Word) : (s.raiseErr e info).inLen = s.inLen := rfl
@[simp] theorem State.raiseErr_outLen (s : State) (e : ErrKind) (info : Word) : (s.raiseErr e info).outLen = s.outLen := rfl
@[simp] theorem State.raiseErr_rdPtr (s : State) (e : ErrKind) (info : Word) : (s.raiseErr e info).rdPtr = s.rdPtr := rfl
@[simp] theorem State.raiseErr_extLen (s : State) (e : ErrKind) (info : Word) : (s.raiseErr e info).extLen = s.extLen := rfl
@[simp] theorem State.raiseErr_nsym (s : State) (e : ErrKind) (info : Word) : (s.raiseErr e info).nsym = s.nsym := rfl
@[simp] theorem State.raiseErr_root (s : State) (e : ErrKind) (info : Word) : (s.raiseErr e info).root = s.root := rfl
@[simp] theorem State.raiseErr_nnodes (s : State) (e : ErrKind) (info : Word) : (s.raiseErr e info).nnodes = s.nnodes := rfl
@[simp] theorem State.raiseErr_maxLen (s : State) (e : ErrKind) (info : Word) : (s.raiseErr e info).maxLen = s.maxLen := rfl
@[simp] theorem State.raiseErr_sigBits (s : State) (e : ErrKind) (info : Word) : (s.raiseErr e info).sigBits = s.sigBits := rfl
@[simp] theorem State.raiseErr_payBits (s : State) (e : ErrKind) (info : Word) : (s.raiseErr e info).payBits = s.payBits := rfl
@[simp] theorem State.raiseErr_payOff (s : State) (e : ErrKind) (info : Word) : (s.raiseErr e info).payOff = s.payOff := rfl
@[simp] theorem State.raiseErr_errInfo (s : State) (e : ErrKind) (info : Word) : (s.raiseErr e info).errInfo = info := rfl
@[simp] theorem State.raiseErr_freq (s : State) (e : ErrKind) (info : Word) : (s.raiseErr e info).freq = s.freq := rfl
@[simp] theorem State.raiseErr_nodes (s : State) (e : ErrKind) (info : Word) : (s.raiseErr e info).nodes = s.nodes := rfl
@[simp] theorem State.raiseErr_codeLen (s : State) (e : ErrKind) (info : Word) : (s.raiseErr e info).codeLen = s.codeLen := rfl
@[simp] theorem State.raiseErr_codeBits (s : State) (e : ErrKind) (info : Word) : (s.raiseErr e info).codeBits = s.codeBits := rfl
@[simp] theorem State.raiseErr_order (s : State) (e : ErrKind) (info : Word) : (s.raiseErr e info).order = s.order := rfl
@[simp] theorem State.raiseErr_mem (s : State) (e : ErrKind) (info : Word) : (s.raiseErr e info).mem = s.mem := rfl
@[simp] theorem State.raiseErr_agenda (s : State) (e : ErrKind) (info : Word) : (s.raiseErr e info).agenda = s.agenda := rfl
@[simp] theorem State.raiseErr_response (s : State) (e : ErrKind) (info : Word) : (s.raiseErr e info).response = s.response := rfl
@[simp] theorem State.raiseErr_draws (s : State) (e : ErrKind) (info : Word) : (s.raiseErr e info).draws = s.draws := rfl
@[simp] theorem State.raiseErr_epoch (s : State) (e : ErrKind) (info : Word) : (s.raiseErr e info).epoch = s.epoch := rfl

/-! ### `State.accept` -/

@[simp] theorem State.accept_params (s : State) (w : Word) : (s.accept w).params = s.params := rfl
@[simp] theorem State.accept_phase (s : State) (w : Word) : (s.accept w).phase = .running w := rfl
@[simp] theorem State.accept_done (s : State) (w : Word) : (s.accept w).done = false := rfl
@[simp] theorem State.accept_error (s : State) (w : Word) : (s.accept w).error = false := rfl
@[simp] theorem State.accept_overrun (s : State) (w : Word) : (s.accept w).overrun = s.overrun := rfl
@[simp] theorem State.accept_errCode (s : State) (w : Word) : (s.accept w).errCode = 0 := rfl
@[simp] theorem State.accept_errSub (s : State) (w : Word) : (s.accept w).errSub = 0 := rfl
@[simp] theorem State.accept_treeValid (s : State) (w : Word) : (s.accept w).treeValid = s.treeValid := rfl
@[simp] theorem State.accept_tableValid (s : State) (w : Word) : (s.accept w).tableValid = s.tableValid := rfl
@[simp] theorem State.accept_irqEn (s : State) (w : Word) : (s.accept w).irqEn = s.irqEn := rfl
@[simp] theorem State.accept_inLen (s : State) (w : Word) : (s.accept w).inLen = s.inLen := rfl
@[simp] theorem State.accept_outLen (s : State) (w : Word) : (s.accept w).outLen = s.outLen := rfl
@[simp] theorem State.accept_rdPtr (s : State) (w : Word) : (s.accept w).rdPtr = s.rdPtr := rfl
@[simp] theorem State.accept_extLen (s : State) (w : Word) : (s.accept w).extLen = s.extLen := rfl
@[simp] theorem State.accept_nsym (s : State) (w : Word) : (s.accept w).nsym = s.nsym := rfl
@[simp] theorem State.accept_root (s : State) (w : Word) : (s.accept w).root = s.root := rfl
@[simp] theorem State.accept_nnodes (s : State) (w : Word) : (s.accept w).nnodes = s.nnodes := rfl
@[simp] theorem State.accept_maxLen (s : State) (w : Word) : (s.accept w).maxLen = s.maxLen := rfl
@[simp] theorem State.accept_sigBits (s : State) (w : Word) : (s.accept w).sigBits = s.sigBits := rfl
@[simp] theorem State.accept_payBits (s : State) (w : Word) : (s.accept w).payBits = s.payBits := rfl
@[simp] theorem State.accept_payOff (s : State) (w : Word) : (s.accept w).payOff = s.payOff := rfl
@[simp] theorem State.accept_errInfo (s : State) (w : Word) : (s.accept w).errInfo = 0 := rfl
@[simp] theorem State.accept_freq (s : State) (w : Word) : (s.accept w).freq = s.freq := rfl
@[simp] theorem State.accept_nodes (s : State) (w : Word) : (s.accept w).nodes = s.nodes := rfl
@[simp] theorem State.accept_codeLen (s : State) (w : Word) : (s.accept w).codeLen = s.codeLen := rfl
@[simp] theorem State.accept_codeBits (s : State) (w : Word) : (s.accept w).codeBits = s.codeBits := rfl
@[simp] theorem State.accept_order (s : State) (w : Word) : (s.accept w).order = s.order := rfl
@[simp] theorem State.accept_mem (s : State) (w : Word) : (s.accept w).mem = s.mem := rfl
@[simp] theorem State.accept_agenda (s : State) (w : Word) : (s.accept w).agenda = s.agenda := rfl
@[simp] theorem State.accept_response (s : State) (w : Word) : (s.accept w).response = s.response := rfl
@[simp] theorem State.accept_draws (s : State) (w : Word) : (s.accept w).draws = s.draws := rfl
@[simp] theorem State.accept_epoch (s : State) (w : Word) : (s.accept w).epoch = s.epoch := rfl

/-! ### `State.store` -/

@[simp] theorem State.store_params (s : State) (a : Nat) (vs : List Byte) : (s.store a vs).params = s.params := rfl
@[simp] theorem State.store_phase (s : State) (a : Nat) (vs : List Byte) : (s.store a vs).phase = s.phase := rfl
@[simp] theorem State.store_done (s : State) (a : Nat) (vs : List Byte) : (s.store a vs).done = s.done := rfl
@[simp] theorem State.store_error (s : State) (a : Nat) (vs : List Byte) : (s.store a vs).error = s.error := rfl
@[simp] theorem State.store_overrun (s : State) (a : Nat) (vs : List Byte) : (s.store a vs).overrun = s.overrun := rfl
@[simp] theorem State.store_errCode (s : State) (a : Nat) (vs : List Byte) : (s.store a vs).errCode = s.errCode := rfl
@[simp] theorem State.store_errSub (s : State) (a : Nat) (vs : List Byte) : (s.store a vs).errSub = s.errSub := rfl
@[simp] theorem State.store_treeValid (s : State) (a : Nat) (vs : List Byte) : (s.store a vs).treeValid = s.treeValid := rfl
@[simp] theorem State.store_tableValid (s : State) (a : Nat) (vs : List Byte) : (s.store a vs).tableValid = s.tableValid := rfl
@[simp] theorem State.store_irqEn (s : State) (a : Nat) (vs : List Byte) : (s.store a vs).irqEn = s.irqEn := rfl
@[simp] theorem State.store_inLen (s : State) (a : Nat) (vs : List Byte) : (s.store a vs).inLen = s.inLen := rfl
@[simp] theorem State.store_outLen (s : State) (a : Nat) (vs : List Byte) : (s.store a vs).outLen = s.outLen := rfl
@[simp] theorem State.store_rdPtr (s : State) (a : Nat) (vs : List Byte) : (s.store a vs).rdPtr = s.rdPtr := rfl
@[simp] theorem State.store_extLen (s : State) (a : Nat) (vs : List Byte) : (s.store a vs).extLen = s.extLen := rfl
@[simp] theorem State.store_nsym (s : State) (a : Nat) (vs : List Byte) : (s.store a vs).nsym = s.nsym := rfl
@[simp] theorem State.store_root (s : State) (a : Nat) (vs : List Byte) : (s.store a vs).root = s.root := rfl
@[simp] theorem State.store_nnodes (s : State) (a : Nat) (vs : List Byte) : (s.store a vs).nnodes = s.nnodes := rfl
@[simp] theorem State.store_maxLen (s : State) (a : Nat) (vs : List Byte) : (s.store a vs).maxLen = s.maxLen := rfl
@[simp] theorem State.store_sigBits (s : State) (a : Nat) (vs : List Byte) : (s.store a vs).sigBits = s.sigBits := rfl
@[simp] theorem State.store_payBits (s : State) (a : Nat) (vs : List Byte) : (s.store a vs).payBits = s.payBits := rfl
@[simp] theorem State.store_payOff (s : State) (a : Nat) (vs : List Byte) : (s.store a vs).payOff = s.payOff := rfl
@[simp] theorem State.store_errInfo (s : State) (a : Nat) (vs : List Byte) : (s.store a vs).errInfo = s.errInfo := rfl
@[simp] theorem State.store_freq (s : State) (a : Nat) (vs : List Byte) : (s.store a vs).freq = s.freq := rfl
@[simp] theorem State.store_nodes (s : State) (a : Nat) (vs : List Byte) : (s.store a vs).nodes = s.nodes := rfl
@[simp] theorem State.store_codeLen (s : State) (a : Nat) (vs : List Byte) : (s.store a vs).codeLen = s.codeLen := rfl
@[simp] theorem State.store_codeBits (s : State) (a : Nat) (vs : List Byte) : (s.store a vs).codeBits = s.codeBits := rfl
@[simp] theorem State.store_order (s : State) (a : Nat) (vs : List Byte) : (s.store a vs).order = s.order := rfl
@[simp] theorem State.store_mem (s : State) (a : Nat) (vs : List Byte) : (s.store a vs).mem = Memory.writeList s.mem a vs := rfl
@[simp] theorem State.store_agenda (s : State) (a : Nat) (vs : List Byte) : (s.store a vs).agenda = s.agenda := rfl
@[simp] theorem State.store_response (s : State) (a : Nat) (vs : List Byte) : (s.store a vs).response = s.response := rfl
@[simp] theorem State.store_draws (s : State) (a : Nat) (vs : List Byte) : (s.store a vs).draws = s.draws := rfl
@[simp] theorem State.store_epoch (s : State) (a : Nat) (vs : List Byte) : (s.store a vs).epoch = s.epoch := rfl

/-! ### `State.emit` -/

@[simp] theorem State.emit_params (s : State) (vs : List Byte) : (s.emit vs).params = s.params := rfl
@[simp] theorem State.emit_phase (s : State) (vs : List Byte) : (s.emit vs).phase = s.phase := rfl
@[simp] theorem State.emit_done (s : State) (vs : List Byte) : (s.emit vs).done = s.done := rfl
@[simp] theorem State.emit_error (s : State) (vs : List Byte) : (s.emit vs).error = s.error := rfl
@[simp] theorem State.emit_overrun (s : State) (vs : List Byte) : (s.emit vs).overrun = s.overrun := rfl
@[simp] theorem State.emit_errCode (s : State) (vs : List Byte) : (s.emit vs).errCode = s.errCode := rfl
@[simp] theorem State.emit_errSub (s : State) (vs : List Byte) : (s.emit vs).errSub = s.errSub := rfl
@[simp] theorem State.emit_treeValid (s : State) (vs : List Byte) : (s.emit vs).treeValid = s.treeValid := rfl
@[simp] theorem State.emit_tableValid (s : State) (vs : List Byte) : (s.emit vs).tableValid = s.tableValid := rfl
@[simp] theorem State.emit_irqEn (s : State) (vs : List Byte) : (s.emit vs).irqEn = s.irqEn := rfl
@[simp] theorem State.emit_inLen (s : State) (vs : List Byte) : (s.emit vs).inLen = s.inLen := rfl
@[simp] theorem State.emit_outLen (s : State) (vs : List Byte) : (s.emit vs).outLen = BitVec.ofNat 32 (s.outLen.toNat + vs.length) := rfl
@[simp] theorem State.emit_rdPtr (s : State) (vs : List Byte) : (s.emit vs).rdPtr = s.rdPtr := rfl
@[simp] theorem State.emit_extLen (s : State) (vs : List Byte) : (s.emit vs).extLen = s.extLen := rfl
@[simp] theorem State.emit_nsym (s : State) (vs : List Byte) : (s.emit vs).nsym = s.nsym := rfl
@[simp] theorem State.emit_root (s : State) (vs : List Byte) : (s.emit vs).root = s.root := rfl
@[simp] theorem State.emit_nnodes (s : State) (vs : List Byte) : (s.emit vs).nnodes = s.nnodes := rfl
@[simp] theorem State.emit_maxLen (s : State) (vs : List Byte) : (s.emit vs).maxLen = s.maxLen := rfl
@[simp] theorem State.emit_sigBits (s : State) (vs : List Byte) : (s.emit vs).sigBits = s.sigBits := rfl
@[simp] theorem State.emit_payBits (s : State) (vs : List Byte) : (s.emit vs).payBits = s.payBits := rfl
@[simp] theorem State.emit_payOff (s : State) (vs : List Byte) : (s.emit vs).payOff = s.payOff := rfl
@[simp] theorem State.emit_errInfo (s : State) (vs : List Byte) : (s.emit vs).errInfo = s.errInfo := rfl
@[simp] theorem State.emit_freq (s : State) (vs : List Byte) : (s.emit vs).freq = s.freq := rfl
@[simp] theorem State.emit_nodes (s : State) (vs : List Byte) : (s.emit vs).nodes = s.nodes := rfl
@[simp] theorem State.emit_codeLen (s : State) (vs : List Byte) : (s.emit vs).codeLen = s.codeLen := rfl
@[simp] theorem State.emit_codeBits (s : State) (vs : List Byte) : (s.emit vs).codeBits = s.codeBits := rfl
@[simp] theorem State.emit_order (s : State) (vs : List Byte) : (s.emit vs).order = s.order := rfl
@[simp] theorem State.emit_mem (s : State) (vs : List Byte) : (s.emit vs).mem = Memory.writeList s.mem (outBase + s.outLen.toNat) vs := rfl
@[simp] theorem State.emit_agenda (s : State) (vs : List Byte) : (s.emit vs).agenda = s.agenda := rfl
@[simp] theorem State.emit_response (s : State) (vs : List Byte) : (s.emit vs).response = s.response := rfl
@[simp] theorem State.emit_draws (s : State) (vs : List Byte) : (s.emit vs).draws = s.draws := rfl
@[simp] theorem State.emit_epoch (s : State) (vs : List Byte) : (s.emit vs).epoch = s.epoch := rfl

/-! ### `State.setTable` -/

@[simp] theorem State.setTable_params (s : State) (t : CodeTable) : (s.setTable t).params = s.params := rfl
@[simp] theorem State.setTable_phase (s : State) (t : CodeTable) : (s.setTable t).phase = s.phase := rfl
@[simp] theorem State.setTable_done (s : State) (t : CodeTable) : (s.setTable t).done = s.done := rfl
@[simp] theorem State.setTable_error (s : State) (t : CodeTable) : (s.setTable t).error = s.error := rfl
@[simp] theorem State.setTable_overrun (s : State) (t : CodeTable) : (s.setTable t).overrun = s.overrun := rfl
@[simp] theorem State.setTable_errCode (s : State) (t : CodeTable) : (s.setTable t).errCode = s.errCode := rfl
@[simp] theorem State.setTable_errSub (s : State) (t : CodeTable) : (s.setTable t).errSub = s.errSub := rfl
@[simp] theorem State.setTable_treeValid (s : State) (t : CodeTable) : (s.setTable t).treeValid = s.treeValid := rfl
@[simp] theorem State.setTable_tableValid (s : State) (t : CodeTable) : (s.setTable t).tableValid = s.tableValid := rfl
@[simp] theorem State.setTable_irqEn (s : State) (t : CodeTable) : (s.setTable t).irqEn = s.irqEn := rfl
@[simp] theorem State.setTable_inLen (s : State) (t : CodeTable) : (s.setTable t).inLen = s.inLen := rfl
@[simp] theorem State.setTable_outLen (s : State) (t : CodeTable) : (s.setTable t).outLen = s.outLen := rfl
@[simp] theorem State.setTable_rdPtr (s : State) (t : CodeTable) : (s.setTable t).rdPtr = s.rdPtr := rfl
@[simp] theorem State.setTable_extLen (s : State) (t : CodeTable) : (s.setTable t).extLen = s.extLen := rfl
@[simp] theorem State.setTable_nsym (s : State) (t : CodeTable) : (s.setTable t).nsym = s.nsym := rfl
@[simp] theorem State.setTable_root (s : State) (t : CodeTable) : (s.setTable t).root = s.root := rfl
@[simp] theorem State.setTable_nnodes (s : State) (t : CodeTable) : (s.setTable t).nnodes = s.nnodes := rfl
@[simp] theorem State.setTable_maxLen (s : State) (t : CodeTable) : (s.setTable t).maxLen = s.maxLen := rfl
@[simp] theorem State.setTable_sigBits (s : State) (t : CodeTable) : (s.setTable t).sigBits = s.sigBits := rfl
@[simp] theorem State.setTable_payBits (s : State) (t : CodeTable) : (s.setTable t).payBits = s.payBits := rfl
@[simp] theorem State.setTable_payOff (s : State) (t : CodeTable) : (s.setTable t).payOff = s.payOff := rfl
@[simp] theorem State.setTable_errInfo (s : State) (t : CodeTable) : (s.setTable t).errInfo = s.errInfo := rfl
@[simp] theorem State.setTable_freq (s : State) (t : CodeTable) : (s.setTable t).freq = s.freq := rfl
@[simp] theorem State.setTable_nodes (s : State) (t : CodeTable) : (s.setTable t).nodes = s.nodes := rfl
@[simp] theorem State.setTable_codeLen (s : State) (t : CodeTable) : (s.setTable t).codeLen = t.len := rfl
@[simp] theorem State.setTable_codeBits (s : State) (t : CodeTable) : (s.setTable t).codeBits = t.bits := rfl
@[simp] theorem State.setTable_order (s : State) (t : CodeTable) : (s.setTable t).order = t.order := rfl
@[simp] theorem State.setTable_mem (s : State) (t : CodeTable) : (s.setTable t).mem = s.mem := rfl
@[simp] theorem State.setTable_agenda (s : State) (t : CodeTable) : (s.setTable t).agenda = s.agenda := rfl
@[simp] theorem State.setTable_response (s : State) (t : CodeTable) : (s.setTable t).response = s.response := rfl
@[simp] theorem State.setTable_draws (s : State) (t : CodeTable) : (s.setTable t).draws = s.draws := rfl
@[simp] theorem State.setTable_epoch (s : State) (t : CodeTable) : (s.setTable t).epoch = s.epoch := rfl

/-! ### `State.cleared` -/

@[simp] theorem State.cleared_params (s : State) : (s.cleared).params = s.params := rfl
@[simp] theorem State.cleared_phase (s : State) : (s.cleared).phase = s.phase := rfl
@[simp] theorem State.cleared_done (s : State) : (s.cleared).done = s.done := rfl
@[simp] theorem State.cleared_error (s : State) : (s.cleared).error = s.error := rfl
@[simp] theorem State.cleared_overrun (s : State) : (s.cleared).overrun = s.overrun := rfl
@[simp] theorem State.cleared_errCode (s : State) : (s.cleared).errCode = s.errCode := rfl
@[simp] theorem State.cleared_errSub (s : State) : (s.cleared).errSub = s.errSub := rfl
@[simp] theorem State.cleared_treeValid (s : State) : (s.cleared).treeValid = false := rfl
@[simp] theorem State.cleared_tableValid (s : State) : (s.cleared).tableValid = false := rfl
@[simp] theorem State.cleared_irqEn (s : State) : (s.cleared).irqEn = s.irqEn := rfl
@[simp] theorem State.cleared_inLen (s : State) : (s.cleared).inLen = s.inLen := rfl
@[simp] theorem State.cleared_outLen (s : State) : (s.cleared).outLen = 0 := rfl
@[simp] theorem State.cleared_rdPtr (s : State) : (s.cleared).rdPtr = 0 := rfl
@[simp] theorem State.cleared_extLen (s : State) : (s.cleared).extLen = s.extLen := rfl
@[simp] theorem State.cleared_nsym (s : State) : (s.cleared).nsym = 0 := rfl
@[simp] theorem State.cleared_root (s : State) : (s.cleared).root = 0 := rfl
@[simp] theorem State.cleared_nnodes (s : State) : (s.cleared).nnodes = 0 := rfl
@[simp] theorem State.cleared_maxLen (s : State) : (s.cleared).maxLen = 0 := rfl
@[simp] theorem State.cleared_sigBits (s : State) : (s.cleared).sigBits = 0 := rfl
@[simp] theorem State.cleared_payBits (s : State) : (s.cleared).payBits = 0 := rfl
@[simp] theorem State.cleared_payOff (s : State) : (s.cleared).payOff = 0 := rfl
@[simp] theorem State.cleared_errInfo (s : State) : (s.cleared).errInfo = s.errInfo := rfl
@[simp] theorem State.cleared_freq (s : State) : (s.cleared).freq = Vector.replicate 256 0 := rfl
@[simp] theorem State.cleared_nodes (s : State) : (s.cleared).nodes = Vector.replicate 511 Node.empty := rfl
@[simp] theorem State.cleared_codeLen (s : State) : (s.cleared).codeLen = Vector.replicate 256 0 := rfl
@[simp] theorem State.cleared_codeBits (s : State) : (s.cleared).codeBits = Vector.replicate 256 0 := rfl
@[simp] theorem State.cleared_order (s : State) : (s.cleared).order = Vector.replicate 256 0 := rfl
@[simp] theorem State.cleared_mem (s : State) : (s.cleared).mem = s.mem := rfl
@[simp] theorem State.cleared_agenda (s : State) : (s.cleared).agenda = s.agenda := rfl
@[simp] theorem State.cleared_response (s : State) : (s.cleared).response = s.response := rfl
@[simp] theorem State.cleared_draws (s : State) : (s.cleared).draws = s.draws := rfl
@[simp] theorem State.cleared_epoch (s : State) : (s.cleared).epoch = s.epoch := rfl

/-! ### `State.writeStatus` -/

@[simp] theorem State.writeStatus_params (s : State) (v : Word) : (s.writeStatus v).params = s.params := rfl
@[simp] theorem State.writeStatus_phase (s : State) (v : Word) : (s.writeStatus v).phase = s.phase := rfl
@[simp] theorem State.writeStatus_done (s : State) (v : Word) : (s.writeStatus v).done = (s.done && !v.getLsbD 1) := rfl
@[simp] theorem State.writeStatus_error (s : State) (v : Word) : (s.writeStatus v).error = (s.error && !v.getLsbD 2) := rfl
@[simp] theorem State.writeStatus_overrun (s : State) (v : Word) : (s.writeStatus v).overrun = (s.overrun && !v.getLsbD 3) := rfl
@[simp] theorem State.writeStatus_errCode (s : State) (v : Word) : (s.writeStatus v).errCode = s.errCode := rfl
@[simp] theorem State.writeStatus_errSub (s : State) (v : Word) : (s.writeStatus v).errSub = s.errSub := rfl
@[simp] theorem State.writeStatus_treeValid (s : State) (v : Word) : (s.writeStatus v).treeValid = s.treeValid := rfl
@[simp] theorem State.writeStatus_tableValid (s : State) (v : Word) : (s.writeStatus v).tableValid = s.tableValid := rfl
@[simp] theorem State.writeStatus_irqEn (s : State) (v : Word) : (s.writeStatus v).irqEn = s.irqEn := rfl
@[simp] theorem State.writeStatus_inLen (s : State) (v : Word) : (s.writeStatus v).inLen = s.inLen := rfl
@[simp] theorem State.writeStatus_outLen (s : State) (v : Word) : (s.writeStatus v).outLen = s.outLen := rfl
@[simp] theorem State.writeStatus_rdPtr (s : State) (v : Word) : (s.writeStatus v).rdPtr = s.rdPtr := rfl
@[simp] theorem State.writeStatus_extLen (s : State) (v : Word) : (s.writeStatus v).extLen = s.extLen := rfl
@[simp] theorem State.writeStatus_nsym (s : State) (v : Word) : (s.writeStatus v).nsym = s.nsym := rfl
@[simp] theorem State.writeStatus_root (s : State) (v : Word) : (s.writeStatus v).root = s.root := rfl
@[simp] theorem State.writeStatus_nnodes (s : State) (v : Word) : (s.writeStatus v).nnodes = s.nnodes := rfl
@[simp] theorem State.writeStatus_maxLen (s : State) (v : Word) : (s.writeStatus v).maxLen = s.maxLen := rfl
@[simp] theorem State.writeStatus_sigBits (s : State) (v : Word) : (s.writeStatus v).sigBits = s.sigBits := rfl
@[simp] theorem State.writeStatus_payBits (s : State) (v : Word) : (s.writeStatus v).payBits = s.payBits := rfl
@[simp] theorem State.writeStatus_payOff (s : State) (v : Word) : (s.writeStatus v).payOff = s.payOff := rfl
@[simp] theorem State.writeStatus_errInfo (s : State) (v : Word) : (s.writeStatus v).errInfo = s.errInfo := rfl
@[simp] theorem State.writeStatus_freq (s : State) (v : Word) : (s.writeStatus v).freq = s.freq := rfl
@[simp] theorem State.writeStatus_nodes (s : State) (v : Word) : (s.writeStatus v).nodes = s.nodes := rfl
@[simp] theorem State.writeStatus_codeLen (s : State) (v : Word) : (s.writeStatus v).codeLen = s.codeLen := rfl
@[simp] theorem State.writeStatus_codeBits (s : State) (v : Word) : (s.writeStatus v).codeBits = s.codeBits := rfl
@[simp] theorem State.writeStatus_order (s : State) (v : Word) : (s.writeStatus v).order = s.order := rfl
@[simp] theorem State.writeStatus_mem (s : State) (v : Word) : (s.writeStatus v).mem = s.mem := rfl
@[simp] theorem State.writeStatus_agenda (s : State) (v : Word) : (s.writeStatus v).agenda = s.agenda := rfl
@[simp] theorem State.writeStatus_response (s : State) (v : Word) : (s.writeStatus v).response = s.response := rfl
@[simp] theorem State.writeStatus_draws (s : State) (v : Word) : (s.writeStatus v).draws = s.draws := rfl
@[simp] theorem State.writeStatus_epoch (s : State) (v : Word) : (s.writeStatus v).epoch = s.epoch := rfl

/-! ### `State.endReset` -/

@[simp] theorem State.endReset_params (s : State) : (s.endReset).params = s.params := rfl
@[simp] theorem State.endReset_phase (s : State) : (s.endReset).phase = .idle := rfl
@[simp] theorem State.endReset_done (s : State) : (s.endReset).done = s.done := rfl
@[simp] theorem State.endReset_error (s : State) : (s.endReset).error = s.error := rfl
@[simp] theorem State.endReset_overrun (s : State) : (s.endReset).overrun = s.overrun := rfl
@[simp] theorem State.endReset_errCode (s : State) : (s.endReset).errCode = s.errCode := rfl
@[simp] theorem State.endReset_errSub (s : State) : (s.endReset).errSub = s.errSub := rfl
@[simp] theorem State.endReset_treeValid (s : State) : (s.endReset).treeValid = s.treeValid := rfl
@[simp] theorem State.endReset_tableValid (s : State) : (s.endReset).tableValid = s.tableValid := rfl
@[simp] theorem State.endReset_irqEn (s : State) : (s.endReset).irqEn = s.irqEn := rfl
@[simp] theorem State.endReset_inLen (s : State) : (s.endReset).inLen = s.inLen := rfl
@[simp] theorem State.endReset_outLen (s : State) : (s.endReset).outLen = s.outLen := rfl
@[simp] theorem State.endReset_rdPtr (s : State) : (s.endReset).rdPtr = s.rdPtr := rfl
@[simp] theorem State.endReset_extLen (s : State) : (s.endReset).extLen = s.extLen := rfl
@[simp] theorem State.endReset_nsym (s : State) : (s.endReset).nsym = s.nsym := rfl
@[simp] theorem State.endReset_root (s : State) : (s.endReset).root = s.root := rfl
@[simp] theorem State.endReset_nnodes (s : State) : (s.endReset).nnodes = s.nnodes := rfl
@[simp] theorem State.endReset_maxLen (s : State) : (s.endReset).maxLen = s.maxLen := rfl
@[simp] theorem State.endReset_sigBits (s : State) : (s.endReset).sigBits = s.sigBits := rfl
@[simp] theorem State.endReset_payBits (s : State) : (s.endReset).payBits = s.payBits := rfl
@[simp] theorem State.endReset_payOff (s : State) : (s.endReset).payOff = s.payOff := rfl
@[simp] theorem State.endReset_errInfo (s : State) : (s.endReset).errInfo = s.errInfo := rfl
@[simp] theorem State.endReset_freq (s : State) : (s.endReset).freq = s.freq := rfl
@[simp] theorem State.endReset_nodes (s : State) : (s.endReset).nodes = s.nodes := rfl
@[simp] theorem State.endReset_codeLen (s : State) : (s.endReset).codeLen = s.codeLen := rfl
@[simp] theorem State.endReset_codeBits (s : State) : (s.endReset).codeBits = s.codeBits := rfl
@[simp] theorem State.endReset_order (s : State) : (s.endReset).order = s.order := rfl
@[simp] theorem State.endReset_mem (s : State) : (s.endReset).mem = s.mem := rfl
@[simp] theorem State.endReset_agenda (s : State) : (s.endReset).agenda = s.agenda := rfl
@[simp] theorem State.endReset_response (s : State) : (s.endReset).response = s.response := rfl
@[simp] theorem State.endReset_draws (s : State) : (s.endReset).draws = s.draws := rfl
@[simp] theorem State.endReset_epoch (s : State) : (s.endReset).epoch = s.epoch := rfl

end Sys2Proof.Machine
end

