-- ==== Sys2Proof/Laws/Ops.lean ====
section
/-! SUPPORT. What each shared operation of a command can do: the checks, the sequence of a whole-run command, the end of
a command, and that every command answers a next state. -/

namespace Sys2Proof.Machine

@[simp] theorem Ran.andThen_ok (s : State) (f : State → Ran) : (Ran.ok s).andThen f = f s := rfl

@[simp] theorem Ran.andThen_raised (e : ErrKind) (i : Word) (s : State) (f : State → Ran) :
    (Ran.raised e i s).andThen f = .raised e i s := rfl

@[simp] theorem Ran.dropOutput_ok (s : State) : (Ran.ok s).dropOutput = .ok s := rfl

@[simp] theorem Ran.dropOutput_raised (e : ErrKind) (i : Word) (s : State) :
    (Ran.raised e i s).dropOutput = .raised e i { s with outLen := 0 } := rfl

@[simp] theorem Ran.complete_ok (s : State) : (Ran.ok s).complete = s.finish := rfl

@[simp] theorem Ran.complete_raised (e : ErrKind) (i : Word) (s : State) :
    (Ran.raised e i s).complete = s.raiseErr e i := rfl

/-- A sequence ends well exactly when both parts do. -/
theorem Ran.andThen_eq_ok {r : Ran} {f : State → Ran} {t : State} :
    r.andThen f = .ok t ↔ ∃ s, r = .ok s ∧ f s = .ok t := by
  cases r <;> simp [Ran.andThen]

/-- A sequence fails in its first part, or in its second after the first ended well. -/
theorem Ran.andThen_eq_raised {r : Ran} {f : State → Ran} {e : ErrKind} {i : Word} {t : State} :
    r.andThen f = .raised e i t ↔ r = .raised e i t ∨ ∃ s, r = .ok s ∧ f s = .raised e i t := by
  cases r <;> simp [Ran.andThen]

/-- How a command can end. -/
theorem Ran.complete_cases (r : Ran) :
    (∃ s, r = .ok s ∧ r.complete = s.finish) ∨ ∃ e i s, r = .raised e i s ∧ r.complete = s.raiseErr e i := by
  cases r with
  | ok s => exact .inl ⟨s, rfl, rfl⟩
  | raised e i s => exact .inr ⟨e, i, s, rfl, rfl⟩

/-- Every command ends with DONE = 1 and BUSY = 0. -/
theorem Ran.complete_done (r : Ran) : r.complete.done = true ∧ r.complete.phase = .idle := by
  cases r <;> exact ⟨rfl, rfl⟩

theorem State.checkInLen_pass {s : State} {go : State → Ran} (h : s.inLen.toNat ≤ s.params.inCap) :
    s.checkInLen go = go s := by
  simp [State.checkInLen, Nat.not_lt.2 h]

theorem State.checkInLen_fail {s : State} {go : State → Ran} (h : s.params.inCap < s.inLen.toNat) :
    s.checkInLen go = .raised .inLenRange s.inLen s := by
  simp [State.checkInLen, h]

theorem State.checkRdPtr_pass {s : State} {go : State → Ran} (h : s.rdPtr.toNat ≤ s.inLen.toNat) :
    s.checkRdPtr go = go s := by
  simp [State.checkRdPtr, Nat.not_lt.2 h]

theorem State.checkRdPtr_fail {s : State} {go : State → Ran} (h : s.inLen.toNat < s.rdPtr.toNat) :
    s.checkRdPtr go = .raised .rdPtrRange s.rdPtr s := by
  simp [State.checkRdPtr, h]

theorem State.checkTree_pass {s : State} {go : State → Ran} (h : s.treeValid = true) : s.checkTree go = go s := by
  simp [State.checkTree, h]

theorem State.checkTree_fail {s : State} {go : State → Ran} (h : s.treeValid = false) :
    s.checkTree go = .raised .noTree 0 s := by
  simp [State.checkTree, h]

theorem State.checkTable_pass {s : State} {go : State → Ran} (h : s.tableValid = true) : s.checkTable go = go s := by
  simp [State.checkTable, h]

theorem State.checkTable_fail {s : State} {go : State → Ran} (h : s.tableValid = false) :
    s.checkTable go = .raised .noTable 0 s := by
  simp [State.checkTable, h]

theorem State.checkRoom_pass {s : State} {n : Nat} {go : State → Ran} (h : s.outLen.toNat + n ≤ s.params.outCap) :
    s.checkRoom n go = go s := by
  simp [State.checkRoom, Nat.not_lt.2 h]

theorem State.checkRoom_fail {s : State} {n : Nat} {go : State → Ran} (h : s.params.outCap < s.outLen.toNat + n) :
    s.checkRoom n go = .raised .outOverflow (BitVec.ofNat 32 (s.outLen.toNat + n)) s := by
  simp [State.checkRoom, h]

/-- Starting a command twice is starting it once: acceptance and the atomic step agree (60 R260, 70 R301). -/
@[simp] theorem State.start_start (s : State) : s.start.start = s.start := rfl

/-- The body of each command. -/
def body : Instr → State → Ran
  | .nop => .ok
  | .clear => fun t => .ok t.cleared
  | .count => countBody
  | .build => buildBody
  | .gencode => gencodeBody
  | .emitExt => emitExtBody
  | .emitTable => emitTableBody
  | .pack => packBody
  | .parseExt => parseExtBody
  | .parseTable => parseTableBody
  | .unpack => unpackBody
  | .compress => compressBody
  | .decompress => decompressBody

/-- Every command is its body under the one template. -/
theorem exec_eq_body (i : Instr) (s : State) : exec i s = .next (body i s.start).complete := by
  cases i <;> rfl

end Sys2Proof.Machine
end

