-- ==== Sys2Proof/Laws/Bus.lean ====
section
/-! SUPPORT. The laws of the port: where registers stand, and what one step can be. -/

namespace Sys2Proof.Machine

/-- Every register is found at its offset (10 R33). -/
@[simp] theorem regAt_regOffset (r : Reg) : regAt (regOffset r) = some r := by cases r <;> rfl

/-- A register's offset is in the register region. -/
theorem regOffset_lt (r : Reg) : regOffset r < 0x400 := by cases r <;> decide

@[simp] theorem regionOf_regOffset (r : Reg) : regionOf (regOffset r) = .reg := by cases r <;> rfl

@[simp] theorem accessOk_regOffset (r : Reg) : accessOk (regOffset r) .four = true := by cases r <;> rfl

/-- An offset below the window's size, as a bus address, is in the window. -/
theorem windowOffset_base (p : Params) (off : Nat) (h : off < windowSize) :
    windowOffset p (p.base + off) = some off := by
  simp [windowOffset, h]

/-- What one step is, by the next event. -/
theorem step_cases (s : State) :
    (s.agenda = [] ∧ step s = coreTurn s) ∨
    (∃ rest, s.agenda = .core :: rest ∧ step s = coreTurn { s with agenda := rest }) ∨
    (∃ rest, s.agenda = .reset :: rest ∧ step s = .next { s with agenda := rest }.assertReset) ∨
    (∃ a rest, s.agenda = .access a :: rest ∧ step s = hostAccess a { s with agenda := rest }) := by
  match h : s.agenda with
  | [] => exact .inl ⟨rfl, by simp [step, nextEvent, h]⟩
  | .core :: rest => exact .inr (.inl ⟨rest, rfl, by simp [step, nextEvent, h]⟩)
  | .reset :: rest => exact .inr (.inr (.inl ⟨rest, rfl, by simp [step, nextEvent, h]⟩))
  | .access a :: rest => exact .inr (.inr (.inr ⟨a, rest, rfl, by simp [step, nextEvent, h]⟩))

/-- What the CORE's turn is, by the phase. -/
theorem coreTurn_cases (s : State) :
    (s.phase = .idle ∧ coreTurn s = .next s) ∨
    (s.phase = .resetting ∧ coreTurn s = .next s.endReset) ∨
    (∃ w i, s.phase = .running w ∧ decode w = .ok i ∧ coreTurn s = exec i s) ∨
    (∃ w e, s.phase = .running w ∧ decode w = .error e ∧ coreTurn s = execIllegal w s) := by
  match h : s.phase with
  | .idle => exact .inl ⟨rfl, by simp [coreTurn, h]⟩
  | .resetting => exact .inr (.inl ⟨rfl, by simp [coreTurn, h]⟩)
  | .running w =>
    match hd : decode w with
    | .ok i => exact .inr (.inr (.inl ⟨w, i, rfl, hd, by simp [coreTurn, h, hd]⟩))
    | .error e => exact .inr (.inr (.inr ⟨w, e, rfl, hd, by simp [coreTurn, h, hd]⟩))

/-- What serving an access can be: a bus error, a read or a write. -/
theorem State.serve_cases (s : State) (a : Access) (off : Nat) :
    (accessOk off a.width = false ∧ s.serve a off = { s with response := .busError }) ∨
    (accessOk off a.width = true ∧ ∃ n, a = .read a.addr n ∧ s.serve a off = s.serveRead off n) ∨
    (accessOk off a.width = true ∧ ∃ n v, a = .write a.addr n v ∧ s.serve a off = s.serveWrite off n v) := by
  cases h : accessOk off a.width with
  | false => exact .inl ⟨rfl, by simp [State.serve, h]⟩
  | true =>
    cases a with
    | read ad n => exact .inr (.inl ⟨rfl, n, rfl, by simp [State.serve, h]⟩)
    | write ad n v => exact .inr (.inr ⟨rfl, n, v, rfl, by simp [State.serve, h]⟩)

/-- A host write of lanes stores the writable ones and leaves every other field. -/
theorem State.pokeLanes_frame (s : State) (off : Nat) (v : Word) (k : Nat) :
    { s.pokeLanes off v k with mem := s.mem } = s := by
  induction k with
  | zero => rfl
  | succ k ih =>
    simp only [State.pokeLanes, State.pokeByte]
    split
    · exact ih
    · exact ih

end Sys2Proof.Machine
end

