-- ==== Sys2Proof/Laws/Memory.lean ====
section
/-! SUPPORT. The laws of memory: a read after a write, what a write leaves alone, and that every operation keeps the
canonical form. -/

namespace Sys2Proof.Machine

@[simp] theorem Memory.read?_nil (a : Nat) : Memory.read? [] a = none := rfl

theorem Memory.read?_write_same (m : List Host.Cell) (a : Nat) (v : Byte) :
    Memory.read? (Memory.write m a v) a = some v := by
  induction m with
  | nil => simp [Memory.write, Memory.read?]
  | cons c rest ih =>
    obtain ⟨b, w⟩ := c
    simp only [Memory.write]
    split
    · simp [Memory.read?]
    · split
      · simp [Memory.read?]
      · have : b ≠ a := by omega
        simp [Memory.read?, this, ih]

theorem Memory.read?_write_other (m : List Host.Cell) {a b : Nat} (v : Byte) (h : b ≠ a) :
    Memory.read? (Memory.write m a v) b = Memory.read? m b := by
  have h' : a ≠ b := fun e => h e.symm
  induction m with
  | nil => simp [Memory.write, Memory.read?, h']
  | cons c rest ih =>
    obtain ⟨d, w⟩ := c
    simp only [Memory.write]
    split
    · simp [Memory.read?, h']
    · split
      · next hd => subst hd; simp [Memory.read?, h']
      · simp [Memory.read?, ih]

/-- What one write does to every read. -/
theorem Memory.read?_write (m : List Host.Cell) (a b : Nat) (v : Byte) :
    Memory.read? (Memory.write m a v) b = if b = a then some v else Memory.read? m b := by
  split
  · next h => subst h; exact Memory.read?_write_same m b v
  · next h => exact Memory.read?_write_other m v h

/-- What a block write does to every read: the block's bytes inside it, the old ones outside. -/
theorem Memory.read?_writeList (m : List Host.Cell) (a b : Nat) (vs : List Byte) :
    Memory.read? (Memory.writeList m a vs) b =
      if a ≤ b then (vs[b - a]?).or (Memory.read? m b) else Memory.read? m b := by
  induction vs generalizing m a with
  | nil => simp [Memory.writeList]
  | cons v rest ih =>
    simp only [Memory.writeList, ih, Memory.read?_write]
    rcases Nat.lt_trichotomy b a with h | h | h
    · have h1 : ¬ a + 1 ≤ b := by omega
      have h2 : ¬ a ≤ b := by omega
      have h3 : b ≠ a := by omega
      simp [h1, h2, h3]
    · subst h; simp
    · have h1 : a + 1 ≤ b := by omega
      have h2 : a ≤ b := by omega
      have h3 : b ≠ a := by omega
      have h4 : b - a = (b - (a + 1)) + 1 := by omega
      simp [h1, h2, h3, h4]

/-- The offsets of a written memory are the old ones and the new one. -/
theorem Memory.mem_write (m : List Host.Cell) (a : Nat) (v : Byte) {c : Host.Cell}
    (h : c ∈ Memory.write m a v) : c ∈ m ∨ c = (a, v) := by
  induction m with
  | nil => simp [Memory.write] at h; exact .inr h
  | cons d rest ih =>
    obtain ⟨b, w⟩ := d
    simp only [Memory.write] at h
    split at h
    · rcases List.mem_cons.1 h with h | h
      · exact .inr h
      · exact .inl h
    · split at h
      · rcases List.mem_cons.1 h with h | h
        · exact .inr h
        · exact .inl (List.mem_cons_of_mem _ h)
      · rcases List.mem_cons.1 h with h | h
        · exact .inl (h ▸ List.mem_cons_self)
        · rcases ih h with h | h
          · exact .inl (List.mem_cons_of_mem _ h)
          · exact .inr h

/-- The offsets of a block-written memory are old ones or inside the block. -/
theorem Memory.mem_writeList (m : List Host.Cell) (a : Nat) (vs : List Byte) {c : Host.Cell}
    (h : c ∈ Memory.writeList m a vs) : c ∈ m ∨ (a ≤ c.1 ∧ c.1 < a + vs.length) := by
  induction vs generalizing m a with
  | nil => exact .inl h
  | cons v rest ih =>
    rcases ih _ _ h with h | ⟨h1, h2⟩
    · rcases Memory.mem_write m a v h with h | h
      · exact .inl h
      · subst h; exact .inr ⟨Nat.le_refl _, by simp⟩
    · exact .inr ⟨by omega, by simp only [List.length_cons]; omega⟩

theorem Memory.wf_nil : Memory.wf [] = true := by decide

theorem Memory.wf_iff (m : List Host.Cell) : Memory.wf m = true ↔ (m.map Prod.fst).Pairwise (· < ·) := by
  simp [Memory.wf]

/-- A write keeps the canonical form. -/
theorem Memory.wf_write (m : List Host.Cell) (a : Nat) (v : Byte) (h : Memory.wf m = true) :
    Memory.wf (Memory.write m a v) = true := by
  rw [Memory.wf_iff] at h ⊢
  induction m with
  | nil => simp [Memory.write]
  | cons d rest ih =>
    obtain ⟨b, w⟩ := d
    simp only [List.map_cons, List.pairwise_cons] at h
    simp only [Memory.write]
    split
    · next hab =>
      simp only [List.map_cons, List.pairwise_cons]
      refine ⟨?_, h⟩
      intro x hx
      rcases List.mem_cons.1 hx with rfl | hx
      · exact hab
      · exact Nat.lt_trans hab (h.1 x hx)
    · split
      · next hab =>
        subst hab
        simp only [List.map_cons, List.pairwise_cons]
        exact h
      · next h1 h2 =>
        simp only [List.map_cons, List.pairwise_cons]
        refine ⟨?_, ih h.2⟩
        intro x hx
        obtain ⟨c, hc, rfl⟩ := List.mem_map.1 hx
        rcases Memory.mem_write rest a v hc with hc | hc
        · exact h.1 _ (List.mem_map_of_mem hc)
        · subst hc; show b < a; omega

/-- A block write keeps the canonical form. -/
theorem Memory.wf_writeList (m : List Host.Cell) (a : Nat) (vs : List Byte) (h : Memory.wf m = true) :
    Memory.wf (Memory.writeList m a vs) = true := by
  induction vs generalizing m a with
  | nil => exact h
  | cons v rest ih => exact ih _ _ (Memory.wf_write m a v h)

/-- The memory after reset is in canonical form. -/
theorem State.afterReset_mem_wf (p : Params) : Memory.wf (State.afterReset p).mem = true := Memory.wf_nil

/-- What a store does to every buffer byte. -/
theorem State.store_ramByte (s : State) (a : Nat) (vs : List Byte) (b : Nat) :
    (s.store a vs).ramByte b = if a ≤ b then (vs[b - a]?).getD (s.ramByte b) else s.ramByte b := by
  simp only [State.ramByte, State.store, Memory.read?_writeList]
  split
  · cases vs[b - a]? <;> rfl
  · rfl

/-- What `emit` does to every buffer byte. -/
theorem State.emit_ramByte (s : State) (vs : List Byte) (b : Nat) :
    (s.emit vs).ramByte b =
      if outBase + s.outLen.toNat ≤ b then (vs[b - (outBase + s.outLen.toNat)]?).getD (s.ramByte b)
      else s.ramByte b :=
  State.store_ramByte s _ vs b

end Sys2Proof.Machine
end

