-- ==== Sys2Proof/Laws/PerInstr.lean ====
section
/-! SUPPORT. Statements about each instruction as syntax, one lemma per constructor. -/

namespace Sys2Proof.Laws.CommandWord

/-- The command word has RSVD = 0, its OPCODE is in the map for this command and for no other, and the command is well
formed (30 R110, R111). -/
def Statement (i : Instr) : Prop :=
  rsvdField (encode i) = 0 ∧ (opcodeMap.filter fun row => row.2 == i) = [(opcodeField (encode i), i)] ∧
    i.wellFormed = true

theorem nop : Statement .nop := by unfold Statement; decide
theorem clear : Statement .clear := by unfold Statement; decide
theorem count : Statement .count := by unfold Statement; decide
theorem build : Statement .build := by unfold Statement; decide
theorem gencode : Statement .gencode := by unfold Statement; decide
theorem emitExt : Statement .emitExt := by unfold Statement; decide
theorem emitTable : Statement .emitTable := by unfold Statement; decide
theorem pack : Statement .pack := by unfold Statement; decide
theorem parseExt : Statement .parseExt := by unfold Statement; decide
theorem parseTable : Statement .parseTable := by unfold Statement; decide
theorem unpack : Statement .unpack := by unfold Statement; decide
theorem compress : Statement .compress := by unfold Statement; decide
theorem decompress : Statement .decompress := by unfold Statement; decide

end Sys2Proof.Laws.CommandWord

namespace Sys2Proof

/-- No opcode stands twice in the map (30 R111). -/
theorem opcodeMap_distinct : (opcodeMap.map Prod.fst).Nodup := by decide

end Sys2Proof
end

