-- ==== Sys2Proof/Laws/Tables.lean ====
section
/-! SUPPORT. The sums and counts of the claims' vocabulary are those BUILD and COUNT compute, and a run of
commands taken apart. -/

namespace Sys2Proof.Safety

open Sys2Proof.Machine

/-- The entries of FREQ, symbol by symbol. -/
theorem map_freqOf (s : State) {α : Type} (f : Word → α) : (symbols.map fun b => f (s.freqOf b)) = s.freq.toList.map f := by
  apply List.ext_getElem
  · simp [symbols]
  · intro i h1 h2
    have h : i < 256 := by simpa using h2
    simp [symbols, State.freqOf, Nat.mod_eq_of_lt h]

/-- The sum a claim speaks of is the sum BUILD checks (40 R157). -/
theorem freqSum_eq (s : State) : freqSum s = totalWeight s.freq := by
  rw [freqSum, totalWeight, map_freqOf s BitVec.toNat]

/-- The number of present symbols a claim speaks of is NSYM of COUNT and BUILD (40 R151, R155). -/
theorem presentCount_eq (s : State) : presentCount s = (presentSymbols s.freq).length := by
  have h : presentCount s = ((symbols.map fun b => s.freqOf b != 0).filter id).length := by
    rw [presentCount, List.filter_map, List.length_map]; rfl
  have h2 : (presentSymbols s.freq).length = ((s.freq.toList.map fun w => w != 0).filter id).length := by
    rw [List.filter_map, List.length_map, presentSymbols, List.length_map]
    have : s.freq.toList = s.freq.toList.zipIdx.map Prod.fst := by simp
    conv_rhs => rw [this, List.filter_map, List.length_map]
    rfl
  rw [h, h2, map_freqOf s (fun w => w != 0)]

@[simp] theorem runs_nil {s t : State} : Runs [] s t ↔ t = s := Iff.rfl

/-- A run of commands is its first command, and the rest where that one ended well. -/
theorem runs_cons {i : Instr} {rest : List Instr} {s t : State} :
    Runs (i :: rest) s t ↔
      if (body i s.start).complete.error then t = (body i s.start).complete else Runs rest (body i s.start).complete t := by
  simp [Runs, exec_eq_body]

end Sys2Proof.Safety
end

