-- ==== Sys2Proof/Machine/Script.lean ====
section
/-! DEFINITION. The host-script notation of 30 R129 and R130, as events of an agenda (offsets from BASE). -/

namespace Sys2Proof.Machine

/-- `W <offset>, v`: one 4-byte write (30 R129). -/
def Script.w (p : Params) (off : Nat) (v : Word) : List Event := [.access (.write (p.base + off) .four v)]

/-- `R <offset>`: one 4-byte read (30 R129). -/
def Script.r (p : Params) (off : Nat) : List Event := [.access (.read (p.base + off) .four)]

/-- `WB <offset>, b0 b1 …`: one 1-byte write per byte (30 R129). -/
def Script.wb (p : Params) (off : Nat) (bs : List Byte) : List Event :=
  bs.zipIdx.map fun e => .access (.write (p.base + off + e.2) .one (e.1.setWidth 32))

/-- `RB <offset>, n`: n 1-byte reads (30 R129). -/
def Script.rb (p : Params) (off n : Nat) : List Event :=
  (List.range n).map fun i => .access (.read (p.base + off + i) .one)

/-- `CMD <MNEMONIC>`: the command word written to CMD (30 R129). -/
def Script.cmd (p : Params) (i : Instr) : List Event := Script.w p (regOffset .cmd) (encode i)

/-- `WAIT` (30 R130), as far as an agenda can say it: the CORE takes its turn and STATUS is read, BUSY then 0
(log 1: the repeated reads before it are accesses of the busy window). -/
def Script.wait (p : Params) : List Event := .core :: Script.r p (regOffset .status)

/-- `RUN <MNEMONIC>` (30 R130). -/
def Script.run (p : Params) (i : Instr) : List Event := Script.cmd p i ++ Script.wait p

/-- `LOADIN b0 …` (30 R130). -/
def Script.loadIn (p : Params) (bs : List Byte) : List Event :=
  Script.wb p inBase bs ++ Script.w p (regOffset .inLen) (BitVec.ofNat 32 bs.length)

/-- `LOADEXT "text"` (30 R130). -/
def Script.loadExt (p : Params) (bs : List Byte) : List Event :=
  Script.wb p extBase bs ++ Script.w p (regOffset .extLen) (BitVec.ofNat 32 bs.length)

/-- `ACK` (30 R130). -/
def Script.ack (p : Params) : List Event := Script.w p (regOffset .status) 0x0000000E

end Sys2Proof.Machine
end

