-- ==== Sys2Proof/Tests/Slice0.lean ====
section
/-! SUPPORT. Tests of the model against 95_test_vectors and the encodings of 30 R111, and witnesses for the hypotheses
of the obligations. -/

namespace Sys2Proof.Tests

open Sys2Proof Sys2Proof.Machine Sys2Proof.Safety

-- One kernel check at a time: checked side by side, the tests' threads exhaust the memory limit.
set_option Elab.async false

/-! ### Well-formedness: each check refuses an ill-formed term -/

theorem test_wellFormed_accepts : (⟨0x4000000, 1, 0x1000000⟩ : Params).wellFormed = true := by decide

theorem test_wellFormed_base : (⟨0x2000000, 16, 16⟩ : Params).baseAligned = false := by decide

theorem test_wellFormed_inCap :
    (⟨0, 0, 16⟩ : Params).inCapInRange = false ∧ (⟨0, 0x1000001, 16⟩ : Params).inCapInRange = false := by decide

theorem test_wellFormed_outCap :
    (⟨0, 16, 0⟩ : Params).outCapInRange = false ∧ (⟨0, 16, 0x1000001⟩ : Params).outCapInRange = false := by decide

theorem test_wellFormed_refuses :
    (⟨1, 16, 16⟩ : Params).wellFormed = false ∧ (⟨0, 0, 16⟩ : Params).wellFormed = false ∧
      (⟨0, 16, 0⟩ : Params).wellFormed = false := by decide

/-! ### Decoding: words written out bit by bit from 30 R110 (31:8 RSVD, 7:0 OPCODE) and R111 -/

theorem test_decode_nop : decode 0b00000000000000000000000000000000 = .ok .nop := by rfl
theorem test_decode_clear : decode 0b00000000000000000000000000000001 = .ok .clear := by rfl
theorem test_decode_count : decode 0b00000000000000000000000000010000 = .ok .count := by rfl
theorem test_decode_build : decode 0b00000000000000000000000000010001 = .ok .build := by rfl
theorem test_decode_gencode : decode 0b00000000000000000000000000010010 = .ok .gencode := by rfl
theorem test_decode_emitExt : decode 0b00000000000000000000000000100000 = .ok .emitExt := by rfl
theorem test_decode_emitTable : decode 0b00000000000000000000000000100001 = .ok .emitTable := by rfl
theorem test_decode_pack : decode 0b00000000000000000000000000100010 = .ok .pack := by rfl
theorem test_decode_parseExt : decode 0b00000000000000000000000000110000 = .ok .parseExt := by rfl
theorem test_decode_parseTable : decode 0b00000000000000000000000000110001 = .ok .parseTable := by rfl
theorem test_decode_unpack : decode 0b00000000000000000000000000110010 = .ok .unpack := by rfl
theorem test_decode_compress : decode 0b00000000000000000000000001000000 = .ok .compress := by rfl
theorem test_decode_decompress : decode 0b00000000000000000000000001000001 = .ok .decompress := by rfl

/-- V-ILL-1, V-ILL-2, V-ILL-3: an unassigned opcode, and RSVD not 0. -/
theorem test_decode_illegal :
    decode 0b00000000000000000000000000000010 = .error (.unassignedOpcode 0x02) ∧
      decode 0b00000000000000000000000100010000 = .error (.rsvdNotZero 0x000001) ∧
      decode 0xFFFFFFFF = .error (.rsvdNotZero 0xFFFFFF) := ⟨rfl, rfl, rfl⟩

/-- V-ILL-4. -/
theorem test_decode_neighbours :
    [0x13, 0x23, 0x33, 0x42, 0xFF].map (decodeTableWord 32) = [none, none, none, none, none] := by rfl

theorem test_decodeTableWord : decodeTableWord 32 0x31 = some .parseTable := by rfl

/-! ### Small states -/

/-- A window not at 0, and small buffers. -/
def small : Params := ⟨0x4000000, 32, 32⟩

/-- The state after reset of the small instance. -/
def fresh : State := State.afterReset small

/-- IN_BUF holds `bs` and IN_LEN is their number. -/
def hold (s : State) (bs : List Byte) : State := { s.store inBase bs with inLen := BitVec.ofNat 32 bs.length }

/-- EXT holds `bs` and EXT_LEN is their number. -/
def ext (s : State) (bs : List Byte) : State := { s.store extBase bs with extLen := BitVec.ofNat 8 bs.length }

/-- FREQ holds the listed counts. -/
def freqs (s : State) (l : List (Byte × Word)) : State :=
  { s with freq := l.foldl (fun f e => f.set e.1.toNat e.2 e.1.isLt) s.freq }

/-- A code table with NSYM and MAXLEN, as PARSE_TABLE leaves it. -/
def table (s : State) (es : List (Byte × Bits)) : State :=
  { s.setTable (CodeTable.ofEntries es) with
    nsym := BitVec.ofNat 9 es.length
    maxLen := BitVec.ofNat 8 ((es.map fun e => e.2.length).foldr max 0)
    tableValid := true }

/-- The state a command leaves. -/
def after (i : Instr) (s : State) : State :=
  match exec i s with
  | .next t => t
  | .fault _ => s
  | .refused _ => s

theorem exec_after (i : Instr) (s : State) : exec i s = .next (after i s) := by cases i <;> rfl

/-- The state one step leaves. -/
def stepped (s : State) : State :=
  match step s with
  | .next t => t
  | .fault _ => s
  | .refused _ => s

/-- OUT_BUF[0..OUT_LEN-1]. -/
def output (s : State) : List Byte := (List.range s.outLen.toNat).map s.outByte

/-- One access due at the port. -/
def ask (s : State) (a : Access) : State := { s with agenda := [.access a] }

/-- A 4-byte read of a window offset. -/
def readAt (s : State) (off : Nat) : State := ask s (.read (s.params.base + off) .four)

/-- A 4-byte write to a window offset. -/
def writeAt (s : State) (off : Nat) (v : Word) : State := ask s (.write (s.params.base + off) .four v)

/-- The codes of E1. -/
def e1Codes : List (Byte × Bits) := [(0x61, [false]), (0x62, [true, false]), (0x63, [true, true])]

/-- "aabc". -/
def aabc : List Byte := [0x61, 0x61, 0x62, 0x63]

/-- "txt". -/
def txt : List Byte := [0x74, 0x78, 0x74]

/-- E1's container. -/
def c16 : List Byte :=
  [0x03, 0x74, 0x78, 0x74, 0x02, 0x61, 0x01, 0x00, 0x62, 0x02, 0x80, 0x63, 0x02, 0xC0, 0x06, 0x2C]

/-! ### One step of each command, against 95_test_vectors -/

/-- V-CTL-1: NOP clears the report of the command before it. -/
theorem test_nop : (after .nop { fresh with error := true, errCode := 1, errInfo := 2 }).statusWord = 0x00000002 ∧
    (after .nop { fresh with error := true, errCode := 1, errInfo := 2 }).errInfo = 0 := by decide +kernel

/-- V-CTL-3: CLEAR clears the results and keeps the host's inputs. -/
theorem test_clear : (after .clear (hold (ext fresh txt) aabc)).statusWord = 0x00000002 ∧
    (after .clear (hold (ext fresh txt) aabc)).inLen = 4 ∧ (after .clear (hold (ext fresh txt) aabc)).extLen = 3 := by
  decide +kernel

theorem test_clear_tables : (after .clear (table (freqs fresh [(0x61, 7)]) e1Codes)).freqOf 0x61 = 0 ∧
    (after .clear (table fresh e1Codes)).codeLenOf 0x62 = 0 ∧ (after .clear (table fresh e1Codes)).nsym = 0 := by
  decide +kernel

/-- V-COUNT-1. -/
theorem test_count : (after .count (hold fresh aabc)).freqOf 0x61 = 2 ∧
    (after .count (hold fresh aabc)).freqOf 0x63 = 1 ∧ (after .count (hold fresh aabc)).nsym = 3 := by decide +kernel

/-- V-COUNT-4, with IN_CAP 32. -/
theorem test_count_range : (after .count { fresh with inLen := 33 }).statusWord = 0x00000126 ∧
    (after .count { fresh with inLen := 33 }).errInfo = 33 := by decide +kernel

/-- V-BUILD-1: a leaf ties an internal node. -/
theorem test_build_tie :
    ((nodeAt (after .build (freqs fresh [(0x61, 1), (0x62, 1), (0x63, 2)])).nodes 256).word1,
      (nodeAt (after .build (freqs fresh [(0x61, 1), (0x62, 1), (0x63, 2)])).nodes 257).word1) =
      (0x8000C461, 0x80020063) := by decide +kernel

/-- V-BUILD-6b: the lighter symbol is LEFT though its index is higher. -/
theorem test_build_weight :
    (nodeAt (after .build (freqs fresh [(0x00, 0xFFFFFFFE), (0x01, 1)])).nodes 256).weight = 0xFFFFFFFF ∧
      (nodeAt (after .build (freqs fresh [(0x00, 0xFFFFFFFE), (0x01, 1)])).nodes 256).word1 = 0x80000001 := by
  decide +kernel

/-- V-BUILD-1: the codes, in ORDER. -/
theorem test_gencode :
    entriesOf (after .gencode (after .build (freqs fresh [(0x61, 1), (0x62, 1), (0x63, 2)]))) =
      [(0x63, [false]), (0x61, [true, false]), (0x62, [true, true])] := by decide +kernel

/-- V-GEN-2. -/
theorem test_gencode_no_tree : (after .gencode fresh).statusWord = 0x00000136 := by decide +kernel

/-- E1's extension block. -/
theorem test_emitExt : output (after .emitExt (ext fresh txt)) = [0x03, 0x74, 0x78, 0x74] := by decide +kernel

/-- V-EMIT-4's form: OUT_CAP one short. -/
theorem test_emitExt_full :
    (after .emitExt { ext fresh txt with outLen := 29 }).statusWord = 0x00000076 ∧
      (after .emitExt { ext fresh txt with outLen := 29 }).errInfo = 33 := by decide +kernel

/-- E1's table block. -/
theorem test_emitTable : output (after .emitTable (table fresh e1Codes)) =
    [0x02, 0x61, 0x01, 0x00, 0x62, 0x02, 0x80, 0x63, 0x02, 0xC0] := by decide +kernel

/-- V-BUILD-7: a code of nine bits takes two code bytes. -/
theorem test_emitTable_nine :
    output (after .emitTable (table fresh [(0x31, [true, true, true, true, true, true, true, true, true])])) =
      [0x00, 0x31, 0x09, 0xFF, 0x80] := by decide +kernel

/-- V-PACK-1. -/
theorem test_pack : output (after .pack (hold (table fresh e1Codes) aabc)) = [0x06, 0x2C] := by decide +kernel

/-- V-PACK-4. -/
theorem test_pack_unknown : (after .pack (hold (table fresh e1Codes) [0x61, 0x62, 0x64])).statusWord = 0x00020066 ∧
    (after .pack (hold (table fresh e1Codes) [0x61, 0x62, 0x64])).errInfo = 2 := by decide +kernel

/-- E1: the extension, and zeros past it. -/
theorem test_parseExt : (after .parseExt (hold fresh c16)).extBytes 5 = [0x74, 0x78, 0x74, 0x00, 0x00] ∧
    (after .parseExt (hold fresh c16)).rdPtr = 4 := by decide +kernel

/-- V-DEC-10. -/
theorem test_parseExt_short : (after .parseExt (hold fresh [0x03, 0x74, 0x78])).statusWord = 0x00000186 := by
  decide +kernel

/-- V-PTAB-1. -/
theorem test_parseTable : entriesOf (after .parseTable { hold fresh c16 with rdPtr := 4 }) = e1Codes ∧
    (after .parseTable { hold fresh c16 with rdPtr := 4 }).rdPtr = 14 := by decide +kernel

/-- V-DEC-11's table: the second 61 stands at offset 4 of the table block. -/
theorem test_parseTable_dup :
    (after .parseTable (hold fresh [0x01, 0x61, 0x01, 0x00, 0x61, 0x01, 0x80])).statusWord = 0x00000486 ∧
      (after .parseTable (hold fresh [0x01, 0x61, 0x01, 0x00, 0x61, 0x01, 0x80])).errInfo = 4 := by decide +kernel

/-- V-UNPACK-1. -/
theorem test_unpack : output (after .unpack (hold (table fresh e1Codes) [0x06, 0x2C])) = aabc := by decide +kernel

/-- V-UNPACK-10's form: one bit that starts a code of two. -/
theorem test_unpack_trailing : (after .unpack (hold (table fresh e1Codes) [0x01, 0x80])).statusWord = 0x00020A86 ∧
    (after .unpack (hold (table fresh e1Codes) [0x01, 0x80])).errInfo = 1 := by decide +kernel

/-- E1. -/
theorem test_compress : output (after .compress (hold (ext fresh txt) aabc)) = c16 ∧
    (after .compress (hold (ext fresh txt) aabc)).statusWord = 0x00030002 := by decide +kernel

/-- E3. -/
theorem test_compress_empty : output (after .compress (ext fresh txt)) = [0x03, 0x74, 0x78, 0x74] ∧
    (after .compress (ext fresh txt)).statusWord = 0x00000002 := by decide +kernel

/-- V-DEC-1. -/
theorem test_decompress : output (after .decompress (hold fresh c16)) = aabc := by decide +kernel

/-- V-DEC-4. -/
theorem test_decompress_no_payload :
    (after .decompress (hold fresh [0x00, 0x00, 0x41, 0x01, 0x00])).statusWord = 0x00020686 := by decide +kernel

/-! ### Single events at the port -/

/-- V-ILL-2. -/
theorem test_illegal : (stepped (fresh.accept 0x00000110)).statusWord = 0x00000016 ∧
    (stepped (fresh.accept 0x00000110)).errInfo = 0x00000110 := by decide +kernel

/-- V-BUS-1, V-BUS-8. -/
theorem test_bus_read : (stepped (readAt fresh 0x000)).response = .data 0x48554631 ∧
    (stepped (readAt fresh 0x048)).response = .data 0 ∧ (stepped (readAt fresh 0x1FF8)).response = .data 0 := by
  decide +kernel

/-- V-BUS-4, V-BUS-5. -/
theorem test_bus_code_window : (stepped (readAt (table fresh e1Codes) 0x860)).response = .data 0x02020100 ∧
    (stepped (readAt (table fresh e1Codes) 0x900)).response = .data 0x00636261 := by decide +kernel

/-- V-BUS-6, V-BUS-7. -/
theorem test_bus_error : (stepped (ask fresh (.read 0x4000002 .two))).response = .busError ∧
    (stepped (ask fresh (.read 0x4000001 .two))).response = .busError ∧
    (stepped (ask fresh (.read 0x4000400 .one))).response = .busError := by decide +kernel

/-- V-BUS-10: W1C of ERROR keeps ERR_CODE. -/
theorem test_bus_status_w1c :
    (stepped (writeAt { fresh with done := true, error := true, errCode := 1 } 0x008 0x4)).statusWord = 0x00000012 := by
  decide +kernel

/-- V-BUS-13, V-BUS-14, V-BUS-15: writes in the busy window. -/
theorem test_bus_overrun : (stepped (writeAt (fresh.accept 0) 0x010 7)).overrun = true ∧
    (stepped (writeAt (fresh.accept 0) 0x010 7)).inLen = 0 ∧
    (stepped (writeAt (fresh.accept 0) 0x004 1)).phase = .running 0 ∧
    (stepped (writeAt (fresh.accept 0) 0x00C 7)).overrun = false := by decide +kernel

/-- 20 R89: byte lanes of a 4-byte write, lowest offset first. -/
theorem test_bus_lanes : (stepped (writeAt fresh 0x1000000 0x64636261)).inBytes 0 4 = [0x61, 0x62, 0x63, 0x64] := by
  decide +kernel

/-- 20 R84: an access below the window. -/
theorem test_outside_window : step (ask fresh (.read 0x3FFFFFC .four)) = .fault (.outsideWindow 0x3FFFFFC) := by rfl

/-- The host's question: the placed command runs at the very next step. -/
theorem test_withFetchWord : stepped (State.reset.withFetchWord 32 0x10) = after .count
    { State.reset with phase := .running 0x10 } := by rfl

/-! ### States that meet the invariants a claim may assume -/

/-- A check of every entry of a table of 256, made along its list. -/
theorem all_entries {α : Type} (v : Vector α 256) (P : α → Byte → Bool)
    (h : (v.toList.zipIdx.all fun e => P e.1 (BitVec.ofNat 8 e.2)) = true) (b : Byte) :
    P (v[b.toNat]'b.isLt) b = true := by
  have hb : b.toNat < 256 := b.isLt
  rw [List.all_eq_true] at h
  have := h (v[b.toNat]'b.isLt, b.toNat)
    (List.mk_mem_zipIdx_iff_getElem?.2 (by rw [List.getElem?_eq_getElem (by simp [hb])]; simp))
  simpa using this

/-- A table whose finite checks hold is a code table. -/
theorem table_of_checks (s : State) (hc : 1 ≤ s.nsym.toNat ∧ s.nsym.toNat ≤ 256) (ho : s.orderedSymbols.Nodup)
    (hs : (s.codeLen.toList.zipIdx.all fun e =>
      (e.1 != 0) == s.orderedSymbols.contains (BitVec.ofNat 8 e.2)) = true)
    (hp : (s.order.toList.drop s.nsym.toNat).all (fun b => b == 0) = true)
    (hb : ((s.codeLen.toList.zip s.codeBits.toList).all fun e => e.2 <<< e.1.toNat == 0) = true)
    (hm : (s.codeLen.toList.zipIdx.all fun e => decide (e.1 ≤ s.maxLen)) = true)
    (hx : (s.orderedSymbols.any fun b => s.codeLenOf b == s.maxLen) = true)
    (hf : (s.orderedSymbols.all fun b => s.orderedSymbols.all fun c => b == c || !(s.code b).isPrefixOf (s.code c)) =
      true) : Table s := by
  have hs' : ∀ b, s.codeLenOf b ≠ 0 ↔ b ∈ s.orderedSymbols := by
    intro b
    have := all_entries s.codeLen (fun l b => (l != 0) == s.orderedSymbols.contains b) hs b
    rw [State.codeLenOf]
    by_cases h : b ∈ s.orderedSymbols <;> simp_all
  refine ⟨hc, ho, hs', ?_, ?_, ⟨?_, ?_⟩, ?_⟩
  · intro i h1 h2
    rw [List.all_eq_true] at hp
    have := hp s.order[i] (by
      rw [List.mem_iff_getElem]
      refine ⟨i - s.nsym.toNat, by simp; omega, ?_⟩
      simp [Nat.add_sub_cancel' h1])
    simp [State.orderAt, Vector.getD, h2, eq_of_beq this]
  · intro b k h
    have hz : s.codeBitsOf b <<< (s.codeLenOf b).toNat = 0 := by
      refine eq_of_beq (List.all_eq_true.1 hb (s.codeLenOf b, s.codeBitsOf b) ?_)
      exact List.mem_iff_getElem.2 ⟨b.toNat, by simpa using b.isLt, by simp [State.codeBitsOf, State.codeLenOf]⟩
    have h1 := congrArg (fun x : BitVec 256 => x.getMsbD (k - (s.codeLenOf b).toNat)) hz
    simp only [BitVec.getMsbD_shiftLeft] at h1
    rw [Nat.sub_add_cancel h] at h1
    simpa using h1
  · intro b
    exact of_decide_eq_true (all_entries s.codeLen (fun l _ => decide (l ≤ s.maxLen)) hm b)
  · obtain ⟨b, -, h⟩ := List.any_eq_true.1 hx
    exact ⟨b, eq_of_beq h⟩
  · intro b c hne h1 h2 hpre
    have := List.all_eq_true.1 (List.all_eq_true.1 hf b ((hs' b).1 h1)) c ((hs' c).1 h2)
    simp [hne, List.isPrefixOf_iff_prefix.2 hpre] at this

/-- Being a code table is a matter of five fields. -/
theorem table_congr {s t : State} (h : Table s) (h1 : t.codeLen = s.codeLen) (h2 : t.codeBits = s.codeBits)
    (h3 : t.order = s.order) (h4 : t.nsym = s.nsym) (h5 : t.maxLen = s.maxLen) : Table t := by
  have e1 : t.codeLenOf = s.codeLenOf := by funext b; simp [State.codeLenOf, h1]
  have e2 : t.codeBitsOf = s.codeBitsOf := by funext b; simp [State.codeBitsOf, h2]
  have e3 : t.orderAt = s.orderAt := by funext i; simp [State.orderAt, h3]
  have e4 : t.code = s.code := by funext b; simp [State.code, e1, e2]
  have e5 : t.orderedSymbols = s.orderedSymbols := by simp [State.orderedSymbols, h4, e3]
  constructor <;> simp only [h4, h5, e1, e2, e3, e4, e5]
  exacts [h.count, h.once, h.coded, h.orderPad, h.bitsPad, h.longest, h.prefixFree]

/-- The complete code 61 "0", 62 "1" (E4). -/
def twoCodes : List (Byte × Bits) := [(0x61, [false]), (0x62, [true])]

/-- The incomplete code 41 "0" (E2). -/
def oneCode : List (Byte × Bits) := [(0x41, [false])]

/-- The node store of two leaves 61 and 62 with FREQ 1. -/
def twoNodes : Vector Node 511 :=
  (((Vector.replicate 511 Node.empty).set 0x61 ⟨true, true, 0x61, 1, 0, 0⟩).set 0x62 ⟨true, true, 0x62, 1, 0, 0⟩).set 256
    ⟨true, false, 0, 2, 0x61, 0x62⟩

/-- A tree and the code table of it. -/
def twoTree (s : State) : State :=
  { table s twoCodes with nodes := twoNodes, root := 256, nnodes := 3, treeValid := true }

theorem table_two : Table (table fresh twoCodes) := by
  apply table_of_checks <;> decide +kernel

theorem table_one : Table (table fresh oneCode) := by
  apply table_of_checks <;> decide +kernel

theorem table_e1 : Table (table fresh e1Codes) := by
  apply table_of_checks <;> decide +kernel

theorem nodeAt_two (n : Nat) : nodeAt twoNodes n =
    if n = 0x61 then ⟨true, true, 0x61, 1, 0, 0⟩ else if n = 0x62 then ⟨true, true, 0x62, 1, 0, 0⟩
    else if n = 256 then ⟨true, false, 0, 2, 0x61, 0x62⟩ else Node.empty := by
  by_cases h : n < 511
  · have e : nodeAt twoNodes n = twoNodes[n] := by simp [nodeAt, Vector.getD, h]
    rw [e]
    simp only [twoNodes, Vector.getElem_set, Vector.getElem_replicate]
    split_ifs <;> first | rfl | omega
  · rw [if_neg (by omega), if_neg (by omega), if_neg (by omega)]
    simp [nodeAt, Vector.getD, h]

theorem valid_two (n : Nat) : (nodeAt twoNodes n).valid = true ↔ n = 0x61 ∨ n = 0x62 ∨ n = 256 := by
  rw [nodeAt_two]; split_ifs <;> simp_all [Node.empty]

theorem internal_two {s : State} {n : Nat} (h : s.nodes = twoNodes) : Internal s n ↔ n = 256 := by
  rw [Internal, h, valid_two]; omega

theorem child_two {s : State} {c : Nat} (h : s.nodes = twoNodes) : Child s 256 c ↔ 0x61 = c ∨ 0x62 = c := by
  rw [Child, h, nodeAt_two]; simp

/-- The two-leaf store is a tree. -/
theorem tree_of_two (s : State) (h : s.nodes = twoNodes) (hn : s.nsym.toNat = 2) (hr : s.root.toNat = 256)
    (hk : s.nnodes.toNat = 3) : Tree s where
  count := by omega
  size := by omega
  leaf n hl := by
    rw [h, nodeAt_two]
    split_ifs with h1 h2 h3
    · exact .inr (by subst h1; rfl)
    · exact .inr (by subst h2; rfl)
    · omega
    · exact .inl rfl
  leaves := by rw [h, hn]; simp only [nodeAt_two]; decide +kernel
  internals n hl := by rw [h, hn, valid_two]; omega
  unused n hl := by
    rw [h, nodeAt_two, if_neg (by omega), if_neg (by omega), if_neg (by omega)]
  inner n hi := by
    obtain rfl := (internal_two h).1 hi
    rw [h]; simp [nodeAt_two]
  older n c hi hc := by
    obtain rfl := (internal_two h).1 hi
    rw [h, valid_two]
    have := (child_two h).1 hc
    omega
  distinct n hi := by
    obtain rfl := (internal_two h).1 hi
    rw [h]; simp [nodeAt_two]
  owned c hv hc := by
    rw [h, valid_two] at hv
    refine ⟨256, ⟨(internal_two h).2 rfl, (child_two h).2 (by omega)⟩, ?_⟩
    rintro n ⟨hi, -⟩
    exact (internal_two h).1 hi
  top := by
    rw [hr]
    refine ⟨by rw [h, valid_two]; omega, ?_⟩
    intro n hi hc
    obtain rfl := (internal_two h).1 hi
    have := (child_two h).1 hc
    omega
  rootIndex _ := by omega
  rootLeaf hl := by omega

theorem tree_two (s : State) : Tree (twoTree s) := tree_of_two _ rfl rfl rfl rfl

/-- Written bytes in every buffer, at the first and the last offset of each. -/
theorem memOk_buffers : MemOk (((((fresh.store 0xA00 [1]).store 0xAFE [2]).store 0x1000000 [3]).store 0x100001F [4]).store
    0x200001F [5]) where
  canonical := by decide +kernel
  inside := by
    have h : (((((fresh.store 0xA00 [1]).store 0xAFE [2]).store 0x1000000 [3]).store 0x100001F [4]).store
      0x200001F [5]).mem = [(0xA00, 1), (0xAFE, 2), (0x1000000, 3), (0x100001F, 4), (0x200001F, 5)] := by decide +kernel
    rw [h]
    intro c hc
    show (0xA00 ≤ c.1 ∧ c.1 < 0xAFF) ∨ (0x1000000 ≤ c.1 ∧ c.1 < 0x1000020) ∨ (0x2000000 ≤ c.1 ∧ c.1 < 0x2000020)
    simp only [List.mem_cons, List.not_mem_nil, or_false] at hc
    rcases hc with rfl | rfl | rfl | rfl | rfl <;> decide

/-! ### Witnesses: states and operands that meet each obligation's hypotheses -/

theorem witness_DecoderTotal (i : Instr) : i.wellFormed = true := rfl

theorem witness_StepRunsCommand :
    (fresh.accept 0x41).phase = .running 0x41 ∧ decode 0x41 = .ok .decompress ∧ Instr.decompress.wellFormed = true ∧
      CoreTurn (fresh.accept 0x41) (fresh.accept 0x41) ∧
      CoreTurn { fresh.accept 0x41 with agenda := [.core, .reset] } { fresh.accept 0x41 with agenda := [.reset] } :=
  ⟨rfl, rfl, rfl, .inl ⟨rfl, rfl⟩, .inr ⟨[.reset], rfl, rfl⟩⟩

theorem witness_IllegalWordFails :
    (fresh.accept 2).phase = .running 2 ∧ (∀ i, encode i ≠ 2) ∧ (∀ i, encode i ≠ 0x110) ∧
      CoreTurn (fresh.accept 2) (fresh.accept 2) :=
  ⟨rfl, by intro i; cases i <;> decide, by intro i; cases i <;> decide, .inl ⟨rfl, rfl⟩⟩

theorem witness_IdleCoreKeepsState :
    fresh.phase = .idle ∧ CoreTurn fresh fresh ∧ CoreTurn { fresh with agenda := [.core] } fresh :=
  ⟨rfl, .inl ⟨rfl, rfl⟩, .inr ⟨[], rfl, rfl⟩⟩

theorem witness_CmdWriteAccepted :
    (writeAt fresh 0x004 0x40).phase = .idle ∧
      (writeAt fresh 0x004 0x40).agenda = .access (.write ((writeAt fresh 0x004 0x40).params.base + 0x004) .four 0x40) :: [] :=
  ⟨rfl, rfl⟩

/-- One write for each clause: the first and the last other offset, STATUS and IRQ_EN. -/
theorem witness_BusyWrites :
    ∀ off ∈ [0x000, 0x3FFFFFC, 0x008, 0x00C], (writeAt (fresh.accept 0) off 7).phase = .running 0 ∧
      BusyOk (writeAt (fresh.accept 0) off 7) ∧ off < 2 ^ 26 ∧ accessOk off .four = true ∧
      (writeAt (fresh.accept 0) off 7).agenda = [.access (.write (0x4000000 + off) .four 7)] := by
  intro off h
  refine ⟨rfl, fun _ => ⟨rfl, rfl, rfl, rfl, rfl⟩, ?_, ?_, rfl⟩ <;> revert off <;> decide

theorem witness_BusyReads (r : Reg) :
    (readAt (fresh.accept 0) (regOffset r)).phase = .running 0 ∧
      (readAt (fresh.accept 0) (regOffset r)).agenda =
        [.access (.read ((readAt (fresh.accept 0) (regOffset r)).params.base + regOffset r) .four)] := ⟨rfl, rfl⟩

/-- The reset input, a write and the read of each register during the sequence, and its end. -/
theorem witness_ResetSequence (r : Reg) :
    ({ fresh.accept 0 with agenda := [.reset] } : State).agenda = .reset :: [] ∧
      (writeAt fresh.assertReset 0x010 1).phase = .resetting ∧ accessOk 0x010 .four = true ∧
      (writeAt fresh.assertReset 0x010 1).agenda = [.access (.write (0x4000000 + 0x010) .four 1)] ∧
      (readAt fresh.assertReset (regOffset r)).agenda = [.access (.read (0x4000000 + regOffset r) .four)] ∧
      CoreTurn fresh.assertReset fresh.assertReset := ⟨rfl, rfl, rfl, rfl, rfl, .inl ⟨rfl, rfl⟩⟩

theorem witness_RegisterReads (r : Reg) :
    (readAt fresh (regOffset r)).phase = .idle ∧
      (readAt fresh (regOffset r)).agenda =
        [.access (.read ((readAt fresh (regOffset r)).params.base + regOffset r) .four)] := ⟨rfl, rfl⟩

theorem witness_RegisterWrites (r : Reg) :
    (writeAt fresh (regOffset r) 0xFFFFFFFF).phase = .idle ∧
      (writeAt fresh (regOffset r) 0xFFFFFFFF).agenda =
        [.access (.write ((writeAt fresh (regOffset r) 0xFFFFFFFF).params.base + regOffset r) .four 0xFFFFFFFF)] ∧
      Reg.status ≠ .cmd ∧ Reg.outCapR ∉ [Reg.status, .irqEn, .inLen, .rdPtr, .extLen] := ⟨rfl, rfl, by decide, by decide⟩

theorem witness_ReadsChangeNothing :
    0x3FFFFFF < 2 ^ 26 ∧ (ask (fresh.accept 0) (.read 0x7FFFFFF .one)).agenda =
      [.access (.read ((ask (fresh.accept 0) (.read 0x7FFFFFF .one)).params.base + 0x3FFFFFF) .one)] := ⟨by decide, rfl⟩

/-- A misaligned word, a halfword in the last register offset and a byte in the last NODE offset. -/
theorem witness_BusErrorChangesNothing :
    (Access.read 0x4000002 .four).addr = fresh.params.base + 2 ∧ 2 % (Access.read 0x4000002 .four).width.bytes ≠ 0 ∧
      (Access.write 0x40007FE .two 0).addr = fresh.params.base + 0x7FE ∧ (0x7FE < 0x800) ∧
      (Access.read 0x4001FFF .one).addr = fresh.params.base + 0x1FFF ∧ (Access.read 0x4001FFF .one).width ≠ .four ∧
      (ask fresh (.read 0x4001FFF .one)).agenda = [.access (.read 0x4001FFF .one)] :=
  ⟨rfl, by decide, rfl, by decide, rfl, by decide, rfl⟩

/-- The first and the last offset of each read-only or reserved range, with IN_CAP 32. -/
theorem witness_ReadOnlyWritesIgnored :
    ∀ off ∈ [0x048, 0x3FC, 0x800, 0x9FC, 0xB00, 0xFFFFFC, 0x1000020, 0x3FFFFFC],
      (writeAt fresh off 1).phase = .idle ∧ off < 2 ^ 26 ∧ accessOk off .four = true ∧
      ((0x048 ≤ off ∧ off < 0x400) ∨ (0x800 ≤ off ∧ off < 0xA00) ∨ (0xB00 ≤ off ∧ off < 0x1000000) ∨
        (0x1000000 + (writeAt fresh off 1).params.inCap ≤ off)) ∧
      (writeAt fresh off 1).agenda = [.access (.write (0x4000000 + off) .four 1)] := by
  intro off h
  refine ⟨rfl, ?_, ?_, ?_, rfl⟩ <;> revert off
  · decide
  · decide
  · show ∀ off ∈ _, _ ∨ _ ∨ _ ∨ (0x1000000 + 32 ≤ off)
    decide

/-- The first and the last word of EXT and of IN_BUF, and the first past IN_CAP. -/
theorem witness_BufferWriteStoresLanes :
    ∀ off ∈ [0xA00, 0xAFC, 0x1000000, 0x100001C, 0x1000020, 0x1FFFFFC],
      (writeAt fresh off 1).phase = .idle ∧ accessOk off .four = true ∧
      ((0xA00 ≤ off ∧ off < 0xB00) ∨ (0x1000000 ≤ off ∧ off < 0x2000000)) ∧
      (writeAt fresh off 1).agenda = [.access (.write (0x4000000 + off) .four 1)] := by
  intro off h
  refine ⟨rfl, ?_, ?_, rfl⟩ <;> revert off <;> decide

theorem witness_FreqWrite :
    (writeAt fresh (0x400 + 4 * (0xFF : Byte).toNat) 9).phase = .idle ∧
      (writeAt fresh (0x400 + 4 * (0xFF : Byte).toNat) 9).agenda =
        [.access (.write (0x4000000 + 0x400 + 4 * (0xFF : Byte).toNat) .four 9)] := ⟨rfl, rfl⟩

/-- The first and the last word of each byte-array window and reserved region, IN_CAP = OUT_CAP = 32. -/
theorem witness_ByteWindowReads :
    ∀ off ∈ [0x800, 0x8FC, 0x900, 0x9FC, 0xA00, 0xAFC, 0xB00, 0xFFC, 0x2000, 0x3FFC, 0x4000, 0xFFFFFC, 0x1000000, 0x100001C,
        0x1000020, 0x1FFFFFC, 0x2000000, 0x200001C, 0x2000020, 0x2FFFFFC, 0x3000000, 0x3FFFFFC],
      (readAt { fresh with outLen := 32 } off).phase = .idle ∧ off < 2 ^ 26 ∧ accessOk off .four = true ∧
      (readAt { fresh with outLen := 32 } off).agenda = [.access (.read (0x4000000 + off) .four)] := by
  intro off h
  refine ⟨rfl, ?_, ?_, rfl⟩ <;> revert off <;> decide

/-- FREQ[0] and FREQ[255], both words of NODE[0] and NODE[510], and the two words past it. -/
theorem witness_WordWindowReads :
    (∀ off ∈ [0x400, 0x7FC, 0x1000, 0x1004, 0x1FF0, 0x1FF4, 0x1FF8, 0x1FFC],
      (readAt fresh off).phase = .idle ∧ (readAt fresh off).agenda = [.access (.read (0x4000000 + off) .four)]) ∧
      0x7FC = 0x400 + 4 * (255 : Byte).toNat ∧ 0x1FF0 = 0x1000 + 8 * 510 ∧ 0x1FF4 = 0x1000 + 8 * 510 + 4 :=
  ⟨fun _ _ => ⟨rfl, rfl⟩, rfl, rfl, rfl⟩

/-- IN_LEN one past IN_CAP; RD_PTR one past IN_LEN = IN_CAP; no tree; no table, also with RD_PTR = IN_LEN = IN_CAP. -/
theorem witness_ChecksComeFirst :
    ({ fresh with inLen := 33 } : State).params.inCap < ({ fresh with inLen := 33 } : State).inLen.toNat ∧
      (({ fresh with inLen := 32, rdPtr := 33 } : State).inLen.toNat ≤ 32 ∧
        ({ fresh with inLen := 32, rdPtr := 33 } : State).inLen.toNat <
          ({ fresh with inLen := 32, rdPtr := 33 } : State).rdPtr.toNat) ∧
      fresh.treeValid = false ∧ fresh.tableValid = false ∧
      (({ fresh with inLen := 32, rdPtr := 32 } : State).rdPtr.toNat ≤
        ({ fresh with inLen := 32, rdPtr := 32 } : State).inLen.toNat) := by decide

theorem witness_CountResult : ({ fresh with inLen := 32 } : State).inLen.toNat ≤ ({ fresh with inLen := 32 } : State).params.inCap := by
  decide

/-- One symbol, and two whose sum is 2^32 - 1 exactly (V-BUILD-3, V-BUILD-6b). -/
theorem witness_BuildResult :
    (freqs fresh [(0x41, 5)]).freqOf 0x41 ≠ 0 ∧ freqSum (freqs fresh [(0x41, 5)]) ≤ 0xFFFFFFFF ∧
      (freqs fresh [(0, 0xFFFFFFFE), (1, 1)]).freqOf 1 ≠ 0 ∧
      freqSum (freqs fresh [(0, 0xFFFFFFFE), (1, 1)]) ≤ 0xFFFFFFFF := by
  rw [freqSum_eq, freqSum_eq]; decide +kernel

/-- Three symbols: BUILD makes two internal nodes (V-BUILD-1). -/
theorem witness_BuildMergesTwoLeast :
    (freqs fresh [(0x61, 1), (0x62, 1), (0x63, 2)]).freqOf 0x63 ≠ 0 ∧
      freqSum (freqs fresh [(0x61, 1), (0x62, 1), (0x63, 2)]) ≤ 0xFFFFFFFF ∧
      (nodeAt (after .build (freqs fresh [(0x61, 1), (0x62, 1), (0x63, 2)])).nodes 257).valid = true := by
  rw [freqSum_eq]; decide +kernel

theorem witness_BuildSingleSymbol :
    (freqs fresh [(0xFF, 0xFFFFFFFF)]).freqOf 0xFF ≠ 0 ∧
      ∀ c, c ≠ 0xFF → (freqs fresh [(0xFF, 0xFFFFFFFF)]).freqOf c = 0 := by
  refine ⟨by decide +kernel, fun c hc => ?_⟩
  have := all_entries (freqs fresh [(0xFF, 0xFFFFFFFF)]).freq (fun w b => b == 0xFF || w == 0) (by decide +kernel) c
  rcases Bool.or_eq_true_iff.1 this with h | h
  · exact absurd (eq_of_beq h) hc
  · exact eq_of_beq h

theorem witness_BuildEmptyAlphabet : ∀ b, fresh.freqOf b = 0 := fun b =>
  eq_of_beq (all_entries fresh.freq (fun w _ => w == 0) (by decide +kernel) b)

/-- V-BUILD-5: one past the bound. -/
theorem witness_BuildWeightOverflow : 0xFFFFFFFF < freqSum (freqs fresh [(0, 0xFFFFFFFF), (1, 1)]) := by
  rw [freqSum_eq]; decide +kernel

theorem witness_GencodeResult :
    (twoTree fresh).treeValid = true ∧ Tree (twoTree fresh) ∧ 2 ≤ (twoTree fresh).nsym.toNat :=
  ⟨rfl, tree_two fresh, by show 2 ≤ (2 : BitVec 9).toNat; decide⟩

theorem witness_GencodeSingleLeaf :
    (after .build (freqs fresh [(0x41, 5)])).treeValid = true ∧
      (nodeAt (after .build (freqs fresh [(0x41, 5)])).nodes (after .build (freqs fresh [(0x41, 5)])).root.toNat).leaf =
        true ∧
      (nodeAt (after .build (freqs fresh [(0x41, 5)])).nodes (after .build (freqs fresh [(0x41, 5)])).root.toNat).sym =
        0x41 := by decide +kernel

/-- The last extension that fits: OUT_LEN 28, four bytes, OUT_CAP 32. -/
theorem witness_EmitExtResult :
    ({ ext fresh txt with outLen := 28 } : State).params.wellFormed = true ∧
      ({ ext fresh txt with outLen := 28 } : State).outLen.toNat + 1 + ({ ext fresh txt with outLen := 28 } : State).extLen.toNat
        ≤ ({ ext fresh txt with outLen := 28 } : State).params.outCap := by decide

/-- A table of one symbol and a table of two; the latter's seven bytes end at OUT_CAP. -/
theorem witness_EmitTableResult :
    (table fresh oneCode).params.wellFormed = true ∧ (table fresh oneCode).tableValid = true ∧ Table (table fresh oneCode) ∧
      (table fresh oneCode).outLen.toNat + (blockOf (entriesOf (table fresh oneCode))).length ≤
        (table fresh oneCode).params.outCap ∧
      Table (table { fresh with outLen := 25 } twoCodes) ∧
      (table { fresh with outLen := 25 } twoCodes).outLen.toNat +
        (blockOf (entriesOf (table { fresh with outLen := 25 } twoCodes))).length = 32 :=
  ⟨by decide, rfl, table_one, by decide +kernel, table_congr table_two rfl rfl rfl rfl rfl, by decide +kernel⟩

/-- One byte too few for each block. -/
theorem witness_EmitOverflow :
    ({ ext fresh txt with outLen := 29 } : State).params.outCap <
        ({ ext fresh txt with outLen := 29 } : State).outLen.toNat + 1 +
          ({ ext fresh txt with outLen := 29 } : State).extLen.toNat ∧
      (table { fresh with outLen := 26 } twoCodes).tableValid = true ∧ Table (table { fresh with outLen := 26 } twoCodes) ∧
      (table { fresh with outLen := 26 } twoCodes).params.outCap <
        (table { fresh with outLen := 26 } twoCodes).outLen.toNat +
          (blockOf (entriesOf (table { fresh with outLen := 26 } twoCodes))).length :=
  ⟨by decide, rfl, table_congr table_two rfl rfl rfl rfl rfl, by decide +kernel⟩

/-- V-PACK-1 with the block ending at OUT_CAP, and the empty input (V-PACK-3). -/
theorem witness_PackResult :
    let s := hold (table { fresh with outLen := 30 } e1Codes) aabc
    let e := hold (table fresh e1Codes) []
    s.params.wellFormed = true ∧ s.inLen.toNat ≤ s.params.inCap ∧ s.tableValid = true ∧
      (∀ i, i < s.inLen.toNat → s.codeLenOf (s.inByte i) ≠ 0) ∧
      [false, false, true, false, true, true] = (s.inBytes 0 s.inLen.toNat).flatMap s.code ∧
      s.outLen.toNat + 1 + ceil8 6 ≤ s.params.outCap ∧
      (∀ i, i < e.inLen.toNat → e.codeLenOf (e.inByte i) ≠ 0) ∧ [] = (e.inBytes 0 e.inLen.toNat).flatMap e.code ∧
      e.outLen.toNat + 1 + ceil8 0 ≤ e.params.outCap := by decide +kernel

/-- V-PACK-4. -/
theorem witness_PackUnknownSymbol :
    let s := hold (table fresh e1Codes) [0x61, 0x62, 0x64]
    s.inLen.toNat ≤ s.params.inCap ∧ s.tableValid = true ∧ 2 < s.inLen.toNat ∧ s.codeLenOf (s.inByte 2) = 0 ∧
      ∀ j, j < 2 → s.codeLenOf (s.inByte j) ≠ 0 := by decide +kernel

/-- V-PACK-5's form: one byte too few. -/
theorem witness_PackOverflow :
    let s := hold (table { fresh with outLen := 31 } e1Codes) aabc
    s.inLen.toNat ≤ s.params.inCap ∧ s.tableValid = true ∧ (∀ i, i < s.inLen.toNat → s.codeLenOf (s.inByte i) ≠ 0) ∧
      [false, false, true, false, true, true] = (s.inBytes 0 s.inLen.toNat).flatMap s.code ∧
      s.params.outCap < s.outLen.toNat + 1 + ceil8 6 := by decide +kernel

/-- An extension that ends the container and one byte too few; the empty extension; RD_PTR at IN_LEN. -/
theorem witness_ParseExtResult :
    (let s := hold fresh [0x03, 0x74, 0x78, 0x74];
      s.inLen.toNat ≤ s.params.inCap ∧ s.rdPtr.toNat = 0 ∧ (s.inByte 0).toNat = 3 ∧ 0 < s.inLen.toNat ∧
        0 + 1 + 3 ≤ s.inLen.toNat) ∧
      (let s := hold fresh [0x00];
        (s.inByte 0).toNat = 0 ∧ 0 < s.inLen.toNat ∧ 0 + 1 + 0 ≤ s.inLen.toNat) ∧
      (let s := hold fresh [0x03, 0x74, 0x78];
        (s.inByte 0).toNat = 3 ∧ 0 < s.inLen.toNat ∧ s.inLen.toNat < 0 + 1 + 3) ∧
      (let s := { hold fresh [0x07, 0x00] with inLen := 1, rdPtr := 1 };
        s.rdPtr.toNat = 1 ∧ (s.inByte 1).toNat = 0 ∧ 1 = s.inLen.toNat) := by decide +kernel

theorem entries_two : Entries twoCodes where
  count := by decide
  lengths := by decide
  once := by decide
  prefixFree := by decide

theorem entries_one : Entries [(0x61, [false])] where
  count := by decide
  lengths := by decide
  once := by decide
  prefixFree := by decide

/-- A block that ends at IN_LEN, its padding bits not 0. -/
theorem witness_ParseTableResult :
    (hold fresh [0x01, 0x61, 0x01, 0x7F, 0x62, 0x01, 0xFF]).inLen.toNat ≤ 32 ∧
      (hold fresh [0x01, 0x61, 0x01, 0x7F, 0x62, 0x01, 0xFF]).rdPtr.toNat = 0 ∧ Entries twoCodes ∧
      ((hold fresh [0x01, 0x61, 0x01, 0x7F, 0x62, 0x01, 0xFF]).inByte 0).toNat = twoCodes.length - 1 ∧
      entriesAt (hold fresh [0x01, 0x61, 0x01, 0x7F, 0x62, 0x01, 0xFF]) (0 + 1) twoCodes 7 ∧
      7 ≤ (hold fresh [0x01, 0x61, 0x01, 0x7F, 0x62, 0x01, 0xFF]).inLen.toNat :=
  ⟨by decide +kernel, by decide +kernel, entries_two, by decide +kernel,
    ⟨by decide +kernel, by decide +kernel, by decide +kernel, by decide +kernel, by decide +kernel, by decide +kernel,
      rfl⟩, by decide +kernel⟩

/-- RD_PTR = IN_LEN = IN_CAP. -/
theorem witness_ParseTableRejects_missing :
    let s := { fresh with inLen := 32, rdPtr := 32 }
    s.inLen.toNat ≤ s.params.inCap ∧ s.rdPtr = s.inLen := by decide

/-- Clauses 2 and 3 on an entry: the first entry has length 0, or lacks the second of its two code bytes. -/
theorem witness_ParseTableRejects_first :
    (let s := hold fresh [0x00, 0x61, 0x00];
      s.inLen.toNat ≤ s.params.inCap ∧ s.rdPtr.toNat = 0 ∧ 0 < s.inLen.toNat ∧ ([] : List (Byte × Bits)).length ≤ (s.inByte 0).toNat ∧
        entriesAt s (0 + 1) [] 1 ∧ (s.inByte (1 + 1)).toNat = 0 ∧ 1 + 2 ≤ s.inLen.toNat) ∧
      (let s := hold fresh [0x00, 0x61, 0x09, 0xFF];
        entriesAt s (0 + 1) [] 1 ∧ (s.inByte (1 + 1)).toNat = 9 ∧ 1 + 2 ≤ s.inLen.toNat ∧ s.inLen.toNat < 1 + 2 + ceil8 9) :=
  ⟨⟨by decide +kernel, by decide +kernel, by decide +kernel, by decide +kernel, rfl, by decide +kernel, by decide +kernel⟩,
    rfl, by decide +kernel, by decide +kernel, by decide +kernel⟩

/-- Clauses 1, 4 and 5 on an entry: after one good entry the second has no length byte, repeats 61, or extends the code "0". -/
theorem witness_ParseTableRejects_second :
    Entries [(0x61, [false])] ∧
      (let s := { hold fresh [0x01, 0x61, 0x01, 0x00, 0x62, 0x00] with inLen := 5 };
        s.inLen.toNat ≤ s.params.inCap ∧ s.rdPtr.toNat = 0 ∧ [((0x61 : Byte), [false])].length ≤ (s.inByte 0).toNat ∧
          entriesAt s (0 + 1) [(0x61, [false])] 4 ∧ 4 ≤ s.inLen.toNat ∧ s.inLen.toNat < 4 + 2 ∧ (s.inByte 5).toNat = 0) ∧
      (let s := hold fresh [0x01, 0x61, 0x01, 0x00, 0x61, 0x01, 0x80];
        entriesAt s (0 + 1) [(0x61, [false])] 4 ∧ (s.inByte (4 + 1)).toNat = 1 ∧ 4 + 2 + ceil8 1 ≤ s.inLen.toNat ∧
          s.inByte 4 = 0x61) ∧
      (let s := hold fresh [0x01, 0x61, 0x01, 0x00, 0x62, 0x02, 0x00];
        entriesAt s (0 + 1) [(0x61, [false])] 4 ∧ (s.inByte (4 + 1)).toNat = 2 ∧ 4 + 2 + ceil8 2 ≤ s.inLen.toNat ∧
          s.inByte 4 = 0x62 ∧ [false] <+: (bitsMSB (s.inBytes (4 + 2) (ceil8 2))).take 2) :=
  ⟨entries_one,
    ⟨by decide +kernel, by decide +kernel, by decide +kernel,
      ⟨by decide +kernel, by decide +kernel, by decide +kernel, rfl⟩, by decide +kernel, by decide +kernel,
      by decide +kernel⟩,
    ⟨⟨by decide +kernel, by decide +kernel, by decide +kernel, rfl⟩, by decide +kernel, by decide +kernel,
      by decide +kernel⟩,
    ⟨⟨by decide +kernel, by decide +kernel, by decide +kernel, rfl⟩, by decide +kernel, by decide +kernel,
      by decide +kernel, by decide +kernel⟩⟩

/-- V-UNPACK-2's form: discarded bits not 0; the output ends at OUT_CAP. -/
theorem witness_UnpackResult :
    let s := hold (table { fresh with outLen := 28 } e1Codes) [0x06, 0x2F]
    s.params.wellFormed = true ∧ s.inLen.toNat ≤ s.params.inCap ∧ s.tableValid = true ∧ Table s ∧ s.rdPtr.toNat = 0 ∧
      (∀ b ∈ aabc, s.codeLenOf b ≠ 0) ∧ PayloadAt s 0 (aabc.flatMap s.code) ∧
      s.outLen.toNat + aabc.length ≤ s.params.outCap :=
  ⟨by decide, by decide +kernel, rfl, table_congr table_e1 rfl rfl rfl rfl rfl, rfl, by decide +kernel,
    ⟨by decide +kernel, by decide +kernel, by decide +kernel, by decide +kernel⟩, by decide⟩

/-- RD_PTR at IN_LEN; a count byte 0 and a count byte 9; a count byte 7 with no data. -/
theorem witness_UnpackBadHeader :
    (let s := { hold (table fresh oneCode) [0x09, 0x00] with rdPtr := 1, inLen := 1 };
      s.inLen.toNat ≤ s.params.inCap ∧ s.tableValid = true ∧ s.rdPtr.toNat = 1 ∧ (s.inByte 1).toNat = 0 ∧ 1 = s.inLen.toNat) ∧
      (let s := hold (table fresh oneCode) [0x00];
        s.rdPtr.toNat = 0 ∧ (s.inByte 0).toNat = 0 ∧ 0 < s.inLen.toNat) ∧
      (let s := hold (table fresh oneCode) [0x09];
        (s.inByte 0).toNat = 9 ∧ 0 < s.inLen.toNat ∧ 8 < 9) ∧
      (let s := hold (table fresh oneCode) [0x07];
        (s.inByte 0).toNat = 7 ∧ 0 + 1 = s.inLen.toNat) := by decide +kernel

/-- BAD_CODEWORD: after 41, the bit 1 that no code of E2's table starts with (V-UNPACK-13). -/
theorem witness_UnpackStops_badCodeword :
    let s := hold (table fresh oneCode) [0x02, 0x40]
    s.inLen.toNat ≤ s.params.inCap ∧ s.params.wellFormed = true ∧ s.tableValid = true ∧ Table s ∧ s.rdPtr.toNat = 0 ∧
      (∀ b ∈ [(0x41 : Byte)], s.codeLenOf b ≠ 0) ∧ PayloadAt s 0 ([(0x41 : Byte)].flatMap s.code ++ [true]) ∧
      s.outLen.toNat + 1 ≤ s.params.outCap ∧ s.maxLen.toNat ≤ [true].length ∧
      (∀ b, s.codeLenOf b ≠ 0 → ¬ s.code b <+: [true]) :=
  ⟨by decide +kernel, by decide, rfl, table_congr table_one rfl rfl rfl rfl rfl, rfl, by decide +kernel,
    ⟨by decide +kernel, by decide +kernel, by decide +kernel, by decide +kernel⟩, by decide, by decide +kernel,
    by decide +kernel⟩

/-- TRAILING_BITS: the bit 1 alone in E1's table (V-UNPACK-10). -/
theorem witness_UnpackStops_trailing :
    let s := hold (table fresh e1Codes) [0x01, 0x80]
    s.inLen.toNat ≤ s.params.inCap ∧ s.params.wellFormed = true ∧ s.tableValid = true ∧ Table s ∧ s.rdPtr.toNat = 0 ∧
      PayloadAt s 0 (([] : List Byte).flatMap s.code ++ [true]) ∧ s.outLen.toNat + 0 ≤ s.params.outCap ∧
      [true] ≠ [] ∧ [true].length < s.maxLen.toNat ∧ (∀ b, s.codeLenOf b ≠ 0 → ¬ s.code b <+: [true]) :=
  ⟨by decide +kernel, by decide, rfl, table_congr table_e1 rfl rfl rfl rfl rfl, rfl,
    ⟨by decide +kernel, by decide +kernel, by decide +kernel, by decide +kernel⟩, by decide, by decide, by decide +kernel,
    by decide +kernel⟩

/-- OUT_OVERFLOW: the second 41 does not fit. -/
theorem witness_UnpackStops_full :
    let s := hold (table { fresh with outLen := 31 } oneCode) [0x02, 0x00]
    s.inLen.toNat ≤ s.params.inCap ∧ s.params.wellFormed = true ∧ s.tableValid = true ∧ Table s ∧ s.rdPtr.toNat = 0 ∧
      (∀ b ∈ [(0x41 : Byte)], s.codeLenOf b ≠ 0) ∧ PayloadAt s 0 ([(0x41 : Byte)].flatMap s.code ++ [false]) ∧
      s.outLen.toNat + 1 = s.params.outCap ∧ s.codeLenOf 0x41 ≠ 0 ∧ s.code 0x41 <+: [false] :=
  ⟨by decide +kernel, by decide, rfl, table_congr table_one rfl rfl rfl rfl rfl, rfl, by decide +kernel,
    ⟨by decide +kernel, by decide +kernel, by decide +kernel, by decide +kernel⟩, by decide, by decide +kernel,
    by decide +kernel⟩

/-- A failure after one stored symbol; the offsets at both edges of its frame. -/
theorem witness_UnpackFailureLeaves :
    let s := hold (table fresh oneCode) [0x02, 0x40]
    exec .unpack s = .next (after .unpack s) ∧ (after .unpack s).error = true ∧
      outBase - 1 < outBase + s.outLen.toNat ∧ outBase + s.params.outCap ≤ outBase + 32 :=
  ⟨exec_after _ _, by decide +kernel, by decide, by decide⟩

/-- E3, with the extension block ending at OUT_CAP. -/
theorem witness_CompressEmptyInput :
    let s := ext (State.afterReset ⟨0, 1, 4⟩) txt
    s.params.wellFormed = true ∧ s.inLen = 0 ∧ 1 + s.extLen.toNat ≤ s.params.outCap := by decide

/-- E1 with the suggested capacities; with OUT_CAP 16, where it ends with success (V-COMP-1); with OUT_CAP 15, where it
fails (V-COMP-2). -/
theorem witness_CompressResult :
    (let s := hold (ext State.reset txt) aabc;
      s.params.wellFormed = true ∧ 0 < s.inLen.toNat ∧ s.inLen.toNat ≤ s.params.inCap ∧
        1 + s.extLen.toNat + (1 + 256 * 34) + 1 + 32 * s.inLen.toNat ≤ s.params.outCap) ∧
      (let s := hold (ext (State.afterReset ⟨0, 4, 16⟩) txt) aabc;
        s.params.wellFormed = true ∧ 0 < s.inLen.toNat ∧ s.inLen.toNat ≤ s.params.inCap ∧
          (after .compress s).error = false) ∧
      (let s := hold (ext (State.afterReset ⟨0, 4, 15⟩) txt) aabc;
        s.params.wellFormed = true ∧ 0 < s.inLen.toNat ∧ s.inLen.toNat ≤ s.params.inCap ∧
          (after .compress s).error = true) := by decide +kernel

/-- E3, and the empty extension. -/
theorem witness_DecompressEmptyFile :
    ((hold fresh [0x03, 0x74, 0x78, 0x74]).inLen.toNat ≤ 32 ∧
      (hold fresh [0x03, 0x74, 0x78, 0x74]).inLen.toNat = 1 + ((hold fresh [0x03, 0x74, 0x78, 0x74]).inByte 0).toNat) ∧
      (hold fresh [0x00]).inLen.toNat = 1 + ((hold fresh [0x00]).inByte 0).toNat := by decide +kernel

/-- An extension of one byte, two entries, and four symbols in four bits. -/
theorem witness_DecompressResult :
    let s := hold fresh [0x01, 0x78, 0x01, 0x61, 0x01, 0x00, 0x62, 0x01, 0x80, 0x04, 0x6F]
    s.params.wellFormed = true ∧ s.inLen.toNat ≤ s.params.inCap ∧ Entries twoCodes ∧
      (s.inByte (1 + (s.inByte 0).toNat)).toNat = twoCodes.length - 1 ∧
      entriesAt s (2 + (s.inByte 0).toNat) twoCodes 9 ∧
      (∀ b ∈ [(0x61 : Byte), 0x62, 0x62, 0x61], b ∈ twoCodes.map Prod.fst) ∧
      PayloadAt s 9 ([(0x61 : Byte), 0x62, 0x62, 0x61].flatMap fun b =>
        ((twoCodes.find? fun e => e.1 == b).map Prod.snd).getD []) ∧
      4 ≤ s.params.outCap :=
  ⟨by decide, by decide +kernel, entries_two, by decide +kernel,
    ⟨by decide +kernel, by decide +kernel, by decide +kernel, by decide +kernel, by decide +kernel, by decide +kernel,
      rfl⟩, by decide,
    ⟨by decide +kernel, by decide +kernel, by decide +kernel, by decide +kernel⟩, by decide⟩

/-- "ab" compressed, and its container in a second machine. -/
theorem witness_ContainerRoundTrip :
    let s := hold fresh [0x61, 0x62]
    let u := hold fresh [0x00, 0x01, 0x61, 0x01, 0x00, 0x62, 0x01, 0x80, 0x02, 0x40]
    s.params.wellFormed = true ∧ u.params.wellFormed = true ∧ exec .compress s = .next (after .compress s) ∧
      (after .compress s).error = false ∧ u.inLen = (after .compress s).outLen ∧ u.inLen.toNat ≤ u.params.inCap ∧
      s.inLen.toNat ≤ u.params.outCap ∧
      (∀ j, j < (after .compress s).outLen.toNat → u.inByte j = (after .compress s).outByte j) :=
  ⟨by decide, by decide, exec_after _ _, by decide +kernel, by decide +kernel, by decide +kernel, by decide +kernel,
    by decide +kernel⟩

/-- COMPRESS whose extension block does not fit (V-COMP-3's form), DECOMPRESS of no container (V-DEC-2), and COMPRESS that
fails its own IN_LEN check (V-COMP-4's form). -/
theorem witness_WholeRunFailureDropsOutput :
    (let s := { ext (State.afterReset ⟨0, 1, 3⟩) txt with outLen := 3 };
      s.inLen.toNat ≤ s.params.inCap ∧ exec .compress s = .next (after .compress s) ∧ (after .compress s).error = true) ∧
      (let s := { fresh with outLen := 3 };
        s.inLen.toNat ≤ s.params.inCap ∧ exec .decompress s = .next (after .decompress s) ∧
          (after .decompress s).error = true) ∧
      (let s := { fresh with outLen := 3, inLen := 33 };
        exec .compress s = .next (after .compress s) ∧ (after .compress s).error = true) :=
  ⟨⟨by decide, exec_after _ _, by decide +kernel⟩, ⟨by decide, exec_after _ _, by decide +kernel⟩, exec_after _ _,
    by decide +kernel⟩

theorem witness_CommandsKeepHostInputs :
    exec .parseExt (hold fresh c16) = .next (after .parseExt (hold fresh c16)) ∧ fresh.params.wellFormed = true ∧
      31 < fresh.params.inCap := ⟨exec_after _ _, by decide, by decide⟩

theorem witness_TablesHaveTheirWriters :
    exec .unpack (hold fresh c16) = .next (after .unpack (hold fresh c16)) ∧
      Instr.unpack ∉ [Instr.count, .clear, .compress] ∧ Instr.unpack ∉ [Instr.build, .clear, .compress] ∧
      Instr.unpack ∉ [Instr.gencode, .parseTable, .clear, .compress, .decompress] ∧
      Instr.nop ∉ [Instr.pack, .unpack, .clear, .compress, .decompress] ∧ Instr.unpack ∉ [Instr.parseExt, .decompress] :=
  ⟨exec_after _ _, by decide, by decide, by decide, by decide, by decide⟩

/-- The last byte before OUT_LEN, and the first at OUT_CAP. -/
theorem witness_OutputOnlyFromOutLen :
    let s := { ext fresh txt with outLen := 5 }
    exec .emitExt s = .next (after .emitExt s) ∧ 4 < s.outLen.toNat ∧ s.params.outCap ≤ 32 :=
  ⟨exec_after _ _, by decide, by decide⟩

theorem witness_FailedPrimitiveKeepsState :
    Instr.gencode ∉ [Instr.unpack, .compress, .decompress] ∧ exec .gencode fresh = .next (after .gencode fresh) ∧
      (after .gencode fresh).error = true := ⟨by decide, exec_after _ _, by decide +kernel⟩

theorem witness_StepKeepsBuffers :
    let s := ((((fresh.store 0xA00 [1]).store 0xAFE [2]).store 0x1000000 [3]).store 0x100001F [4]).store 0x200001F [5]
    s.params.wellFormed = true ∧ MemOk s ∧ OutLenOk s ∧ ∃ t, step s = .next t :=
  ⟨by decide, memOk_buffers, by show (0 : Word).toNat ≤ 32; decide, _, rfl⟩

/-- After an error, and while a command runs. -/
theorem witness_StepKeepsErrorReport :
    (let s := { fresh with done := true, error := true, errCode := 8, errSub := 10 };
      ErrorOk s ∧ BusyOk s ∧ ∃ t, step s = .next t) ∧
      (ErrorOk (fresh.accept 2) ∧ BusyOk (fresh.accept 2) ∧ ∃ t, step (fresh.accept 2) = .next t) :=
  ⟨⟨⟨by decide, fun _ => by decide⟩, fun h => absurd h (by decide), _, rfl⟩,
    ⟨by decide, fun h => absurd h (by decide)⟩, fun _ => ⟨rfl, rfl, rfl, rfl, rfl⟩, _, rfl⟩

theorem witness_StepKeepsTree :
    (twoTree fresh).treeValid = true ∧ TreeOk (twoTree fresh) ∧ ∃ t, step (twoTree fresh) = .next t :=
  ⟨rfl, fun _ => tree_two fresh, _, rfl⟩

theorem witness_StepKeepsTable :
    let s := (twoTree fresh).accept 0x12
    s.tableValid = true ∧ TreeOk s ∧ TableOk s ∧ ∃ t, step s = .next t :=
  ⟨rfl, fun _ => tree_two (fresh.accept 0x12), fun _ => table_congr table_two rfl rfl rfl rfl rfl, _, rfl⟩

end Sys2Proof.Tests
end

/-! PROOFS. What one step can make of the state, said once: by the event at the port, and for a write by what it can
store. The invariants of every step are read off these two lists. -/

namespace Sys2Proof.Safety

open Sys2Proof.Machine

/-! ### What keeps the buffers well formed -/

theorem MemOk.congr {s t : State} (h : MemOk s) (hp : t.params = s.params) (hm : t.mem = s.mem) : MemOk t :=
  ⟨hm ▸ h.canonical, by rw [hp, hm]; exact h.inside⟩

/-- A block written where buffer bytes stand keeps the memory canonical and in the buffers. -/
theorem MemOk.writeList {s t : State} {a : Nat} {vs : List Byte} (h : MemOk s) (hp : t.params = s.params)
    (hm : t.mem = Memory.writeList s.mem a vs) (hin : ∀ b, a ≤ b → b < a + vs.length → ramOffset s.params b) :
    MemOk t where
  canonical := by rw [hm]; exact Memory.wf_writeList _ _ _ h.canonical
  inside c hc := by
    rw [hm] at hc
    rw [hp]
    rcases Memory.mem_writeList _ _ _ hc with hc | ⟨h1, h2⟩
    · exact h.inside c hc
    · exact hin _ h1 h2

theorem OutLenOk.of_le {s : State} {n : Nat} (h : s.outLen = BitVec.ofNat 32 n) (hn : n ≤ s.params.outCap) :
    OutLenOk s := by
  rw [OutLenOk, h, BitVec.toNat_ofNat]
  exact (Nat.mod_le _ _).trans hn

end Sys2Proof.Safety

namespace Sys2Proof.Machine

open Sys2Proof.Safety

/-! ### A host write of byte lanes -/

theorem regionOf_ext_ge {off : Nat} (h : regionOf off = .ext) : extBase ≤ off := by
  unfold regionOf at h; unfold extBase; grind

theorem regionOf_inBuf_ge {off : Nat} (h : regionOf off = .inBuf) : inBase ≤ off := by
  unfold regionOf at h; unfold inBase; grind

/-- A byte the host may write is a buffer byte (20 R84). -/
theorem State.hostWritable_ramOffset {s : State} {off : Nat} (h : s.hostWritable off = true) :
    ramOffset s.params off := by
  unfold State.hostWritable at h
  split at h
  case h_1 hr =>
    have h1 := regionOf_ext_ge hr
    have h2 : off - extBase < 255 := of_decide_eq_true h
    exact .inl ⟨h1, by omega⟩
  case h_2 hr =>
    have h1 := regionOf_inBuf_ge hr
    have h2 : off - inBase < s.params.inCap := of_decide_eq_true h
    exact .inr (.inl ⟨h1, by omega⟩)
  all_goals cases h

theorem State.pokeByte_memOk {s : State} (off : Nat) (v : Byte) (h : MemOk s) : MemOk (s.pokeByte off v) := by
  unfold State.pokeByte
  split
  · next hw =>
    have hmem : Memory.write s.mem off v = Memory.writeList s.mem off [v] := rfl
    refine h.writeList rfl hmem fun b h1 h2 => ?_
    obtain rfl : b = off := by simp only [List.length_singleton] at h2; omega
    exact s.hostWritable_ramOffset hw
  · exact h

theorem State.pokeLanes_memOk {s : State} (off : Nat) (v : Word) (k : Nat) (h : MemOk s) :
    MemOk (s.pokeLanes off v k) := by
  induction k with
  | zero => exact h
  | succ k ih => exact pokeByte_memOk _ _ ih

/-- A host write of lanes writes the memory only. -/
theorem State.pokeLanes_eq (s : State) (off : Nat) (v : Word) (k : Nat) :
    s.pokeLanes off v k = { s with mem := (s.pokeLanes off v k).mem } :=
  congrArg (fun u : State => { u with mem := (s.pokeLanes off v k).mem }) (s.pokeLanes_frame off v k)

/-! ### The moves -/

/-- What a served write can make of `s`, in any phase (10 R33–R58, 20 R84, R85, 70 R290, R302). -/
inductive Written (s : State) : State → Prop
  | ignored : Written s s
  | accepted (v : Word) : Written s (s.accept v)
  | status (v : Word) : Written s (s.writeStatus v)
  | irqEn (e : BitVec 3) : Written s { s with irqEn := e }
  | inLen (v : Word) : Written s { s with inLen := v }
  | rdPtr (v : Word) : Written s { s with rdPtr := v }
  | extLen (b : Byte) : Written s { s with extLen := b }
  | overrun : Written s { s with overrun := true }
  | freq (f : Vector Word 256) : Written s { s with freq := f }
  | lanes (m : List Host.Cell) (h : MemOk s → MemOk { s with mem := m }) : Written s { s with mem := m }

theorem State.writeReg_written (s : State) (r : Reg) (v : Word) : Written s (s.writeReg r v) := by
  cases r with
  | cmd => exact .accepted v
  | status => exact .status v
  | irqEn => exact .irqEn _
  | inLen => exact .inLen v
  | rdPtr => exact .rdPtr v
  | extLen => exact .extLen _
  | id | outLen | nsym | root | nnodes | maxLen | sigBits | payBits | payOff | errInfo | inCapR | outCapR =>
    exact .ignored

theorem State.pokeLanes_written (s : State) (off : Nat) (v : Word) (k : Nat) : Written s (s.pokeLanes off v k) := by
  rw [s.pokeLanes_eq]
  exact .lanes _ fun h => s.pokeLanes_eq off v k ▸ pokeLanes_memOk off v k h

theorem State.writeIdle_written (s : State) (off : Nat) (n : Width) (v : Word) : Written s (s.writeIdle off n v) := by
  unfold State.writeIdle
  split
  · split
    · exact s.writeReg_written _ v
    · exact .ignored
  · exact .freq _
  · exact s.pokeLanes_written off v n.bytes
  · exact s.pokeLanes_written off v n.bytes
  all_goals exact .ignored

theorem State.writeRunning_written (s : State) (off : Nat) (v : Word) : Written s (s.writeRunning off v) := by
  unfold State.writeRunning
  split
  · exact .status v
  · exact .irqEn _
  · exact .overrun

theorem State.writeValue_written (s : State) (off : Nat) (n : Width) (v : Word) : Written s (s.writeValue off n v) := by
  unfold State.writeValue
  split
  · exact s.writeIdle_written off n v
  · exact s.writeRunning_written off v
  · exact .ignored

/-- What the event just taken from the agenda can make of `s` (20 R94). -/
inductive Move (s : State) : State → Prop
  | stay : Move s s
  | endReset : Move s s.endReset
  | command (i : Instr) : Move s (body i s.start).complete
  | illegal (w : Word) : Move s (Ran.raised .illegalCommand w s.start).complete
  | reset : Move s s.assertReset
  | busError : Move s { s with response := .busError }
  | read (off : Nat) (n : Width) : Move s (s.serveRead off n)
  | write (u : State) (h : Written s u) : Move s { u with response := .written }

theorem coreTurn_moves {s t : State} (h : coreTurn s = .next t) : Move s t := by
  rcases coreTurn_cases s with ⟨-, hc⟩ | ⟨-, hc⟩ | ⟨w, i, -, -, hc⟩ | ⟨w, e, -, -, hc⟩ <;> rw [hc] at h
  · cases h; exact .stay
  · cases h; exact .endReset
  · rw [exec_eq_body] at h; cases h; exact .command i
  · cases h; exact .illegal w

theorem State.serve_moves (s : State) (a : Access) (off : Nat) : Move s (s.serve a off) := by
  rcases s.serve_cases a off with ⟨-, h⟩ | ⟨-, n, -, h⟩ | ⟨-, n, v, -, h⟩ <;> rw [h]
  · exact .busError
  · exact .read off n
  · exact .write _ (s.writeValue_written off n v)

theorem hostAccess_moves {a : Access} {s t : State} (h : hostAccess a s = .next t) : Move s t := by
  unfold hostAccess at h
  split at h
  · cases h; exact s.serve_moves a _
  · cases h

/-- One step is one move, after the event is taken from the agenda. -/
theorem step_moves {s t : State} (h : step s = .next t) : ∃ rest, Move { s with agenda := rest } t := by
  rcases step_cases s with ⟨hs, hc⟩ | ⟨rest, -, hc⟩ | ⟨rest, -, hc⟩ | ⟨a, rest, -, hc⟩ <;> rw [hc] at h
  · exact ⟨s.agenda, coreTurn_moves h⟩
  · exact ⟨rest, coreTurn_moves h⟩
  · cases h; exact ⟨rest, .reset⟩
  · exact ⟨rest, hostAccess_moves h⟩

/-! ### What the body of a command leaves -/

/-- The state a body leaves, whether it ended well or failed, meets `P`. -/
def Ran.Leaves (P : State → Prop) : Ran → Prop
  | .ok s => P s
  | .raised _ _ s => P s

section
variable {P Q : State → Prop} {r : Ran} {s : State} {go : State → Ran}

theorem Ran.Leaves.mono (h : r.Leaves P) (hi : ∀ t, P t → Q t) : r.Leaves Q := by
  cases r with
  | ok s => exact hi s h
  | raised e i s => exact hi s h

/-- A sequence of steps leaves what its steps keep. -/
theorem Ran.Leaves.andThen {f : State → Ran} (h : r.Leaves P) (hf : ∀ t, P t → (f t).Leaves P) :
    (r.andThen f).Leaves P := by
  cases r with
  | ok s => exact hf s h
  | raised e i s => exact h

theorem Ran.Leaves.dropOutput (h : r.Leaves P) (hd : ∀ t, P t → P { t with outLen := 0 }) : r.dropOutput.Leaves P := by
  cases r with
  | ok s => exact h
  | raised e i s => exact hd s h

theorem State.checkInLen_leaves (h : P s) (hgo : (go s).Leaves P) : (s.checkInLen go).Leaves P := by
  unfold State.checkInLen; split
  · exact h
  · exact hgo

theorem State.checkRdPtr_leaves (h : P s) (hgo : (go s).Leaves P) : (s.checkRdPtr go).Leaves P := by
  unfold State.checkRdPtr; split
  · exact h
  · exact hgo

theorem State.checkTree_leaves (h : P s) (hgo : s.treeValid = true → (go s).Leaves P) : (s.checkTree go).Leaves P := by
  unfold State.checkTree; split
  · exact hgo ‹_›
  · exact h

theorem State.checkTable_leaves (h : P s) (hgo : (go s).Leaves P) : (s.checkTable go).Leaves P := by
  unfold State.checkTable; split
  · exact hgo
  · exact h

theorem State.checkRoom_leaves {size : Nat} (h : P s)
    (hgo : s.outLen.toNat + size ≤ s.params.outCap → (go s).Leaves P) : (s.checkRoom size go).Leaves P := by
  unfold State.checkRoom; split
  · exact h
  · exact hgo (Nat.not_lt.1 ‹_›)

end

/-! ### The frame of every command's body -/

/-- The fields no command's body writes: the host's, the port's, and those of the command's own start and end. -/
structure Control where
  params : Params
  phase : Phase
  done : Bool
  error : Bool
  overrun : Bool
  errCode : BitVec 4
  errSub : BitVec 4
  errInfo : Word
  irqEn : BitVec 3
  inLen : Word
  agenda : List Event
  response : Response
  draws : Nat
  epoch : Nat

/-- The control fields of a state. -/
def State.control (s : State) : Control :=
  ⟨s.params, s.phase, s.done, s.error, s.overrun, s.errCode, s.errSub, s.errInfo, s.irqEn, s.inLen, s.agenda,
    s.response, s.draws, s.epoch⟩

/-- What the body of a command keeps from `s` to `t`: the control fields, IN_BUF (any byte below OUT_BUF, so any IN_CAP
of 00 R9), and the well-formedness of the buffers. -/
structure Framed (s t : State) : Prop where
  control : t.control = s.control
  inBuf : ∀ a, inBase ≤ a → a < outBase → t.ramByte a = s.ramByte a
  buffers : MemOk s → OutLenOk s → MemOk t ∧ OutLenOk t

theorem Framed.refl (s : State) : Framed s s := ⟨rfl, fun _ _ _ => rfl, fun hm ho => ⟨hm, ho⟩⟩

theorem Framed.trans {s t u : State} (h : Framed s t) (h' : Framed t u) : Framed s u where
  control := h'.control.trans h.control
  inBuf a h1 h2 := (h'.inBuf a h1 h2).trans (h.inBuf a h1 h2)
  buffers hm ho := have ⟨hm', ho'⟩ := h.buffers hm ho; h'.buffers hm' ho'

/-- A state that differs in registers and tables only. -/
theorem Framed.of_mem {s t : State} (hc : t.control = s.control) (hm : t.mem = s.mem)
    (ho : t.outLen = s.outLen ∨ t.outLen = 0) : Framed s t where
  control := hc
  inBuf a _ _ := by
    have he : t.epoch = s.epoch := congrArg Control.epoch hc
    simp only [State.ramByte, hm, he]
  buffers h hol := by
    have hp : t.params = s.params := congrArg Control.params hc
    refine ⟨h.congr hp hm, ?_⟩
    rcases ho with ho | ho
    · rw [OutLenOk, ho, hp]; exact hol
    · rw [OutLenOk, ho]; exact Nat.zero_le _

/-- A state whose memory has one more block, outside IN_BUF. -/
theorem Framed.of_writeList {s t : State} {a : Nat} {vs : List Byte} (hc : t.control = s.control)
    (hm : t.mem = Memory.writeList s.mem a vs) (hout : a + vs.length ≤ inBase ∨ outBase ≤ a)
    (hin : OutLenOk s → ∀ b, a ≤ b → b < a + vs.length → ramOffset s.params b) (ho : OutLenOk s → OutLenOk t) :
    Framed s t where
  control := hc
  inBuf b h1 h2 := by
    have he : t.epoch = s.epoch := congrArg Control.epoch hc
    simp only [State.ramByte, hm, he, Memory.read?_writeList]
    split
    · have : vs[b - a]? = none := List.getElem?_eq_none (by omega)
      simp [this]
    · rfl
  buffers h hol := ⟨h.writeList (congrArg Control.params hc) hm (hin hol), ho hol⟩

/-- A command ends as its body left the machine, but for what its start and its end write (60 R260–R262). -/
theorem Ran.complete_framed {s : State} {r : Ran} (h : r.Leaves (Framed s.start)) :
    ∃ u, Framed s.start u ∧ ∃ er c b i,
      r.complete = { u with done := true, error := er, errCode := c, errSub := b, errInfo := i, phase := .idle } := by
  cases r with
  | ok u => exact ⟨u, h, _, _, _, _, rfl⟩
  | raised e i u => exact ⟨u, h, _, _, _, _, rfl⟩

/-! ### The commands that write no tree and no table -/

/-- The tree and the code table: what COUNT, BUILD, GENCODE and PARSE_TABLE write (30 R114). -/
structure Coding where
  treeValid : Bool
  tableValid : Bool
  nsym : BitVec 9
  nodes : Vector Node 511
  root : BitVec 9
  nnodes : BitVec 10
  codeLen : Vector Byte 256
  codeBits : Vector (BitVec 256) 256
  order : Vector Byte 256
  maxLen : Byte

/-- The tree and the code table of a state. -/
def State.coding (s : State) : Coding :=
  ⟨s.treeValid, s.tableValid, s.nsym, s.nodes, s.root, s.nnodes, s.codeLen, s.codeBits, s.order, s.maxLen⟩

/-- `t` is `s` after the body of a command that reads or writes blocks of the container and nothing else. -/
structure BlocksOnly (s t : State) : Prop extends Framed s t where
  coding : t.coding = s.coding

theorem BlocksOnly.refl (s : State) : BlocksOnly s s := ⟨.refl s, rfl⟩

/-- A block appended to OUT_BUF where it fits. -/
theorem BlocksOnly.of_emit {s t : State} {vs : List Byte} {size : Nat} (hs : vs.length = size)
    (hroom : s.outLen.toNat + size ≤ s.params.outCap) (hc : t.control = s.control) (hd : t.coding = s.coding)
    (hm : t.mem = (s.emit vs).mem) (ho : t.outLen = (s.emit vs).outLen) : BlocksOnly s t where
  toFramed := by
    refine .of_writeList hc hm (.inr (Nat.le_add_right _ _)) (fun _ b h1 h2 => .inr (.inr ?_)) fun _ => ?_
    · omega
    · refine OutLenOk.of_le ho ?_
      have hp : t.params = s.params := congrArg Control.params hc
      rw [hp, hs]; exact hroom
  coding := hd

theorem emitExtBody_leaves (s : State) : (emitExtBody s).Leaves (BlocksOnly s) :=
  State.checkRoom_leaves (.refl s) fun h => .of_emit s.extBlock_length h rfl rfl rfl rfl

theorem emitTableBody_leaves (s : State) : (emitTableBody s).Leaves (BlocksOnly s) :=
  State.checkTable_leaves (.refl s) <|
    State.checkRoom_leaves (.refl s) fun h => .of_emit s.tableBlock_length h rfl rfl rfl rfl

theorem packBody_leaves (s : State) : (packBody s).Leaves (BlocksOnly s) := by
  refine State.checkInLen_leaves (.refl s) (State.checkTable_leaves (.refl s) ?_)
  dsimp only
  split
  · exact .refl s
  · refine State.checkRoom_leaves (.refl s) fun h => .of_emit ?_ h rfl rfl rfl rfl
    rw [List.length_cons, packMSB_length, State.payload_length, Nat.add_comm]

theorem State.parseExtFrom_leaves (s : State) (p l : Nat) (hl : l ≤ 255) :
    (s.parseExtFrom p l).Leaves (BlocksOnly s) := by
  unfold State.parseExtFrom
  split
  · exact .refl s
  · refine ⟨.of_writeList rfl rfl (.inl ?_) (fun _ b h1 h2 => .inl ⟨h1, ?_⟩) id, rfl⟩
    · simp [extBase, inBase]; omega
    · simp at h2; omega

theorem parseExtBody_leaves (s : State) : (parseExtBody s).Leaves (BlocksOnly s) := by
  refine State.checkInLen_leaves (.refl s) (State.checkRdPtr_leaves (.refl s) ?_)
  split
  · exact .refl s
  · exact s.parseExtFrom_leaves _ _ (Nat.le_of_lt_succ (BitVec.isLt _))

/-- The matching loop stores no symbol at or past OUT_CAP (41 R186). -/
theorem State.decodeBits_fits (s : State) (bits : Bits) (t o : Nat) (acc : Bits) (h : o ≤ s.params.outCap) :
    o + (s.decodeBits bits t o acc).syms.length ≤ s.params.outCap := by
  induction bits generalizing t o acc with
  | nil => exact h
  | cons b rest ih =>
    unfold State.decodeBits
    split
    · split
      · exact h
      · have := ih (t + 1) (o + 1) [] (by omega)
        simp only [List.length_cons]; omega
    · split
      · exact h
      · exact ih _ _ _ h

theorem State.unpackFrom_leaves (s : State) (p k : Nat) : (s.unpackFrom p k).Leaves (BlocksOnly s) := by
  unfold State.unpackFrom
  split
  · exact .refl s
  dsimp only
  split
  · exact .refl s
  generalize hd : s.decodeBits _ 0 s.outLen.toNat [] = d
  have fits (h : OutLenOk s) : s.outLen.toNat + d.syms.length ≤ s.params.outCap := by
    rw [← hd]; exact s.decodeBits_fits _ _ _ _ h
  have inside (h : OutLenOk s) (b : Nat) (h1 : outBase + s.outLen.toNat ≤ b)
      (h2 : b < outBase + s.outLen.toNat + d.syms.length) : ramOffset s.params b :=
    .inr (.inr ⟨by omega, by have := fits h; omega⟩)
  have outside : outBase + s.outLen.toNat + d.syms.length ≤ inBase ∨ outBase ≤ outBase + s.outLen.toNat :=
    .inr (Nat.le_add_right _ _)
  split
  · exact ⟨.of_writeList rfl rfl outside inside id, rfl⟩
  · exact ⟨.of_writeList rfl rfl outside inside fun h => OutLenOk.of_le rfl (fits h), rfl⟩

theorem unpackBody_leaves (s : State) : (unpackBody s).Leaves (BlocksOnly s) := by
  refine State.checkInLen_leaves (.refl s) (State.checkRdPtr_leaves (.refl s) (State.checkTable_leaves (.refl s) ?_))
  split
  · exact .refl s
  · exact s.unpackFrom_leaves _ _

/-! ### Every command keeps the frame -/

theorem countBody_framed (s : State) : (countBody s).Leaves (Framed s) :=
  State.checkInLen_leaves (.refl s) (.of_mem rfl rfl (.inl rfl))

theorem buildBody_framed (s : State) : (buildBody s).Leaves (Framed s) := by
  unfold buildBody
  dsimp only
  split
  · exact .refl s
  split
  · exact .refl s
  · exact .of_mem rfl rfl (.inl rfl)

theorem gencodeBody_framed (s : State) : (gencodeBody s).Leaves (Framed s) :=
  State.checkTree_leaves (.refl s) fun _ => .of_mem rfl rfl (.inl rfl)

theorem parseTableBody_framed (s : State) : (parseTableBody s).Leaves (Framed s) := by
  refine State.checkInLen_leaves (.refl s) (State.checkRdPtr_leaves (.refl s) ?_)
  split
  · exact .refl s
  · unfold State.parseTableFrom
    split
    · exact .refl s
    · exact .of_mem rfl rfl (.inl rfl)

/-- A step of a whole-run command keeps what the steps before it kept. -/
theorem Framed.next {s t : State} {r : Ran} (h : Framed s t) (hr : r.Leaves (Framed t)) : r.Leaves (Framed s) :=
  hr.mono fun _ => h.trans

theorem Ran.Leaves.framed {s : State} {r : Ran} (h : r.Leaves (BlocksOnly s)) : r.Leaves (Framed s) :=
  h.mono fun _ => BlocksOnly.toFramed

theorem compressSteps_framed (s : State) : (compressSteps s).Leaves (Framed s) := by
  have h0 : Framed s { s with outLen := 0, treeValid := false, tableValid := false } := .of_mem rfl rfl (.inr rfl)
  refine Ran.Leaves.andThen (h0.next (countBody_framed _)) fun s1 h1 => ?_
  refine Ran.Leaves.andThen (h1.next (.framed (emitExtBody_leaves s1))) fun s2 h2 => ?_
  split
  · refine Ran.Leaves.andThen (h2.next (buildBody_framed s2)) fun s3 h3 => ?_
    refine Ran.Leaves.andThen (h3.next (gencodeBody_framed s3)) fun s4 h4 => ?_
    refine Ran.Leaves.andThen (h4.next (.framed (emitTableBody_leaves s4))) fun s5 h5 => ?_
    exact h5.next (.framed (packBody_leaves s5))
  · exact h2

theorem decompressSteps_framed (s : State) : (decompressSteps s).Leaves (Framed s) := by
  have h0 : Framed s { s with outLen := 0, rdPtr := 0, treeValid := false, tableValid := false } :=
    .of_mem rfl rfl (.inr rfl)
  refine Ran.Leaves.andThen (h0.next (.framed (parseExtBody_leaves _))) fun s1 h1 => ?_
  split
  · refine Ran.Leaves.andThen (h1.next (parseTableBody_framed s1)) fun s2 h2 => ?_
    exact h2.next (.framed (unpackBody_leaves s2))
  · exact h1.trans (.of_mem rfl rfl (.inl rfl))

/-- A whole-run command keeps what its steps keep. -/
theorem Framed.wholeRun {s : State} {steps : State → Ran} (h : (steps s).Leaves (Framed s)) :
    (s.checkInLen steps).dropOutput.Leaves (Framed s) :=
  (State.checkInLen_leaves (.refl s) h).dropOutput fun _ ht => ht.trans (.of_mem rfl rfl (.inr rfl))

/-- The body of every command keeps the frame. -/
theorem body_framed (i : Instr) (s : State) : (body i s).Leaves (Framed s) := by
  cases i with
  | nop => exact .refl s
  | clear => exact .of_mem rfl rfl (.inr rfl)
  | count => exact countBody_framed s
  | build => exact buildBody_framed s
  | gencode => exact gencodeBody_framed s
  | emitExt => exact Ran.Leaves.framed (emitExtBody_leaves s)
  | emitTable => exact Ran.Leaves.framed (emitTableBody_leaves s)
  | pack => exact Ran.Leaves.framed (packBody_leaves s)
  | parseExt => exact Ran.Leaves.framed (parseExtBody_leaves s)
  | parseTable => exact parseTableBody_framed s
  | unpack => exact Ran.Leaves.framed (unpackBody_leaves s)
  | compress => exact Framed.wholeRun (compressSteps_framed s)
  | decompress => exact Framed.wholeRun (decompressSteps_framed s)

end Sys2Proof.Machine

/-! PROOFS. The invariants of every step that need the commands' frame only (10 R39–R46, 20 R80–R86, 60 R263). -/

namespace Sys2Proof.Machine

open Sys2Proof.Safety

/-! ### The buffers and OUT_LEN -/

/-- What `StepKeepsBuffers` keeps from `s` to `t`. -/
def BuffersKept (s t : State) : Prop := t.params = s.params ∧ MemOk t ∧ OutLenOk t

theorem BuffersKept.of_eq {s t : State} (hm : MemOk s) (ho : OutLenOk s) (h1 : t.params = s.params)
    (h2 : t.mem = s.mem) (h3 : t.outLen = s.outLen) : BuffersKept s t :=
  ⟨h1, hm.congr h1 h2, by rw [OutLenOk, h1, h3]; exact ho⟩

theorem Written.buffersKept {s t : State} (h : Written s t) (hm : MemOk s) (ho : OutLenOk s) : BuffersKept s t := by
  cases h with
  | lanes m h => exact ⟨rfl, h hm, ho⟩
  | ignored | accepted | status | irqEn | inLen | rdPtr | extLen | overrun | freq => exact .of_eq hm ho rfl rfl rfl

/-- The end of a command writes no buffer and no OUT_LEN. -/
theorem Ran.complete_buffersKept {s : State} {r : Ran} (h : r.Leaves (Framed s.start)) (hm : MemOk s)
    (ho : OutLenOk s) : BuffersKept s r.complete := by
  obtain ⟨u, hu, er, c, b, i, he⟩ := Ran.complete_framed h
  obtain ⟨h1, h2⟩ := hu.buffers (hm.congr rfl rfl) ho
  rw [he]
  exact ⟨congrArg Control.params hu.control, h1.congr rfl rfl, h2⟩

theorem Move.buffersKept {s t : State} (h : Move s t) (hm : MemOk s) (ho : OutLenOk s) : BuffersKept s t := by
  cases h with
  | command i => exact Ran.complete_buffersKept (body_framed i s.start) hm ho
  | illegal w => exact Ran.complete_buffersKept (.refl s.start) hm ho
  | reset => exact ⟨rfl, ⟨State.afterReset_mem_wf s.params, fun c hc => absurd hc List.not_mem_nil⟩, Nat.zero_le _⟩
  | write u hu =>
    obtain ⟨h1, h2, h3⟩ := hu.buffersKept hm ho
    exact ⟨h1, h2.congr rfl rfl, h3⟩
  | stay | endReset | busError | read => exact .of_eq hm ho rfl rfl rfl

/-- Settles O56: every move keeps the buffers, the commands' by the frame of their bodies. -/
theorem stepKeepsBuffers : Obligations.StepKeepsBuffers := by
  intro s t _ hm ho h
  obtain ⟨rest, hmove⟩ := step_moves h
  exact hmove.buffersKept (hm.congr rfl rfl) ho

/-! ### The host's inputs -/

/-- Settles O52: the frame of the body, and that a command's start and end write none of these. -/
theorem commandsKeepHostInputs : Obligations.CommandsKeepHostInputs := by
  intro i s t h
  rw [exec_eq_body] at h
  cases h
  obtain ⟨u, hu, er, c, b, info, he⟩ := Ran.complete_framed (body_framed i s.start)
  rw [he]
  have hc := hu.control
  refine ⟨congrArg Control.inLen hc, congrArg Control.irqEn hc, congrArg Control.overrun hc,
    congrArg Control.params hc, congrArg Control.agenda hc, congrArg Control.response hc,
    congrArg Control.draws hc, congrArg Control.epoch hc, fun hw j hj => ?_⟩
  have hcap : s.params.inCap ≤ 2 ^ 24 := by
    simp only [Params.wellFormed, Params.inCapInRange, Bool.and_eq_true, decide_eq_true_eq] at hw
    exact hw.1.2.2
  exact hu.inBuf _ (Nat.le_add_right _ _) (by simp only [inBase, outBase]; omega)

/-! ### The error report -/

/-- The codes of an error kind are a row of 60 R263 with a code. -/
theorem ErrKind.listed (e : ErrKind) : (e.code, e.sub) ∈ errorPairs ∧ e.code ≠ 0 := by cases e <;> decide

/-- No error is recorded: ERROR, ERR_CODE, ERR_SUB are 0. -/
theorem errorOk_of_none {s : State} (h : s.error = false) (hc : s.errCode = 0) (hs : s.errSub = 0) : ErrorOk s where
  listed := by rw [hc, hs]; decide
  coded he := by rw [h] at he; cases he

/-- A command's end is a legal report: none after a success, the row of its kind after a failure. -/
theorem Ran.complete_errorOk {s : State} {r : Ran} (h : r.Leaves (Framed s.start)) : ErrorOk r.complete := by
  cases r with
  | ok t =>
    exact errorOk_of_none (congrArg Control.error h.control) (congrArg Control.errCode h.control)
      (congrArg Control.errSub h.control)
  | raised e i t => exact ⟨e.listed.1, fun _ => e.listed.2⟩

theorem busyOk_of_idle {s : State} (h : s.phase = .idle) : BusyOk s := by
  intro hb
  rw [State.busy, h] at hb
  cases hb

/-- The invariants of the error report. -/
def ReportOk (s : State) : Prop := ErrorOk s ∧ BusyOk s

theorem Ran.complete_reportOk {s : State} {r : Ran} (h : r.Leaves (Framed s.start)) : ReportOk r.complete :=
  ⟨r.complete_errorOk h, busyOk_of_idle r.complete_done.2⟩

/-- A state with the same phase and report, where DONE and ERROR may have been cleared. -/
theorem ReportOk.of_eq {s t : State} (h : ReportOk s) (hp : t.phase = s.phase) (hd : s.done = false → t.done = false)
    (he : s.error = false → t.error = false) (hc : t.errCode = s.errCode) (hs : t.errSub = s.errSub)
    (hi : t.errInfo = s.errInfo) : ReportOk t := by
  obtain ⟨⟨hlisted, hcoded⟩, hbusy⟩ := h
  refine ⟨⟨by rw [hc, hs]; exact hlisted, fun h1 => ?_⟩, fun hb => ?_⟩
  · rw [hc]
    refine hcoded (Bool.not_eq_false _ ▸ fun h0 => ?_)
    rw [he h0] at h1; cases h1
  · have hb' : s.busy = true := by rw [State.busy, ← hp]; exact hb
    obtain ⟨h1, h2, h3, h4, h5⟩ := hbusy hb'
    exact ⟨hd h1, he h2, hc.trans h3, hs.trans h4, hi.trans h5⟩

theorem Written.reportOk {s t : State} (h : Written s t) (hr : ReportOk s) : ReportOk t := by
  cases h with
  | accepted v => exact ⟨errorOk_of_none rfl rfl rfl, fun _ => ⟨rfl, rfl, rfl, rfl, rfl⟩⟩
  | status v => exact hr.of_eq rfl (fun h => by simp [h]) (fun h => by simp [h]) rfl rfl rfl
  | ignored | irqEn | inLen | rdPtr | extLen | overrun | freq | lanes => exact hr.of_eq rfl id id rfl rfl rfl

theorem Move.reportOk {s t : State} (h : Move s t) (hr : ReportOk s) : ReportOk t := by
  cases h with
  | command i => exact Ran.complete_reportOk (body_framed i s.start)
  | illegal w => exact Ran.complete_reportOk (.refl s.start)
  | reset => exact ⟨errorOk_of_none rfl rfl rfl, fun _ => ⟨rfl, rfl, rfl, rfl, rfl⟩⟩
  | endReset => exact ⟨⟨hr.1.listed, hr.1.coded⟩, busyOk_of_idle rfl⟩
  | write u hu => exact (hu.reportOk hr).of_eq rfl id id rfl rfl rfl
  | stay | busError | read => exact hr.of_eq rfl id id rfl rfl rfl

/-- Settles O57: every move keeps the report; a command's end writes a row of 60 R263 and leaves BUSY 0. -/
theorem stepKeepsErrorReport : Obligations.StepKeepsErrorReport := by
  intro s t he hb h
  obtain ⟨rest, hmove⟩ := step_moves h
  exact hmove.reportOk (ReportOk.of_eq ⟨he, hb⟩ rfl id id rfl rfl rfl)

end Sys2Proof.Machine

/-! PROOFS. What a served access is as one step, and what registers and windows read as while BUSY is 0 (10 R33–R67,
20 R84–R89). -/

namespace Sys2Proof.Machine

open Sys2Proof.Safety

/-! ### A served access is one step -/

section
variable {s : State} {rest : List Event} {off : Nat} {n : Width}

theorem step_read (hs : s.agenda = .access (.read (s.params.base + off) n) :: rest) (hoff : off < windowSize)
    (hok : accessOk off n = true) :
    step s = .next { s with
      agenda := rest, response := .data (s.readValue off n (Config.freeWord s.draws)), draws := s.draws + 1 } := by
  have h : step s = hostAccess (.read (s.params.base + off) n) { s with agenda := rest } := by
    simp only [step, nextEvent, hs]
  simp only [h, hostAccess, Access.addr, windowOffset_base _ _ hoff, State.serve, Access.width, hok, if_true]
  rfl

theorem step_write {v : Word} (hs : s.agenda = .access (.write (s.params.base + off) n v) :: rest)
    (hoff : off < windowSize) (hok : accessOk off n = true) :
    step s = .next { { s with agenda := rest }.writeValue off n v with response := .written } := by
  have h : step s = hostAccess (.write (s.params.base + off) n v) { s with agenda := rest } := by
    simp only [step, nextEvent, hs]
  simp only [h, hostAccess, Access.addr, windowOffset_base _ _ hoff, State.serve, Access.width, hok, if_true]
  rfl

theorem step_read_idle (hidle : s.phase = .idle) (hs : s.agenda = .access (.read (s.params.base + off) n) :: rest)
    (hoff : off < windowSize) (hok : accessOk off n = true) :
    step s = .next { s with
      agenda := rest, response := .data (s.readIdle off n (Config.freeWord s.draws)), draws := s.draws + 1 } := by
  rw [step_read hs hoff hok, State.readValue, hidle]

theorem step_write_idle {v : Word} (hidle : s.phase = .idle)
    (hs : s.agenda = .access (.write (s.params.base + off) n v) :: rest) (hoff : off < windowSize)
    (hok : accessOk off n = true) :
    step s = .next { { s with agenda := rest }.writeIdle off n v with response := .written } := by
  rw [step_write hs hoff hok, State.writeValue, hidle]

end

theorem regOffset_lt_windowSize (r : Reg) : regOffset r < windowSize :=
  (regOffset_lt r).trans (by decide)

theorem State.readIdle_reg (s : State) (r : Reg) (n : Width) (free : Word) :
    s.readIdle (regOffset r) n free = s.readReg r := by
  simp only [State.readIdle, regionOf_regOffset, regAt_regOffset]

theorem State.writeIdle_reg (s : State) (r : Reg) (n : Width) (v : Word) :
    s.writeIdle (regOffset r) n v = s.writeReg r v := by
  simp only [State.writeIdle, regionOf_regOffset, regAt_regOffset]

/-! ### The fields of a word -/

/-- A field above the low part of a concatenation. -/
theorem extract_above {m n start len : Nat} {x : BitVec m} {y : BitVec n} {z : BitVec len} (h : n ≤ start)
    (hx : x.extractLsb' (start - n) len = z) : (x ++ y).extractLsb' start len = z :=
  (BitVec.extractLsb'_append_eq_of_le h).trans hx

theorem extract_low {m n : Nat} {x : BitVec m} {y : BitVec n} : (x ++ y).extractLsb' 0 n = y :=
  (BitVec.extractLsb'_append_eq_of_add_le (Nat.zero_add n).le).trans BitVec.extractLsb'_eq_self

theorem getLsbD_of_extract {n i : Nat} {x : BitVec n} {b : Bool} (h : x.extractLsb' i 1 = bit b) : x.getLsbD i = b := by
  have h0 := congrArg (fun y : BitVec 1 => y.getLsbD 0) h
  simpa [bit] using h0

/-- The fields of a STATUS word (10 R36). -/
theorem packStatus_fields (tv trv : Bool) (sub code : BitVec 4) (o e d b : Bool) :
    (packStatus tv trv sub code o e d b).getLsbD 0 = b ∧ (packStatus tv trv sub code o e d b).getLsbD 1 = d ∧
    (packStatus tv trv sub code o e d b).getLsbD 2 = e ∧ (packStatus tv trv sub code o e d b).getLsbD 3 = o ∧
    (packStatus tv trv sub code o e d b).extractLsb' 4 4 = code ∧
    (packStatus tv trv sub code o e d b).extractLsb' 8 4 = sub ∧
    (packStatus tv trv sub code o e d b).extractLsb' 12 4 = 0 ∧
    (packStatus tv trv sub code o e d b).getLsbD 16 = trv ∧ (packStatus tv trv sub code o e d b).getLsbD 17 = tv ∧
    (packStatus tv trv sub code o e d b).extractLsb' 18 14 = 0 := by
  unfold packStatus
  refine ⟨getLsbD_of_extract ?_, getLsbD_of_extract ?_, getLsbD_of_extract ?_, getLsbD_of_extract ?_, ?_, ?_, ?_,
    getLsbD_of_extract ?_, getLsbD_of_extract ?_, ?_⟩
  · exact extract_low
  · exact extract_above (by decide) extract_low
  · iterate 2 refine extract_above (by decide) ?_
    exact extract_low
  · iterate 3 refine extract_above (by decide) ?_
    exact extract_low
  · iterate 4 refine extract_above (by decide) ?_
    exact extract_low
  · iterate 5 refine extract_above (by decide) ?_
    exact extract_low
  · iterate 6 refine extract_above (by decide) ?_
    exact extract_low
  · iterate 7 refine extract_above (by decide) ?_
    exact extract_low
  · iterate 8 refine extract_above (by decide) ?_
    exact extract_low
  · iterate 9 refine extract_above (by decide) ?_
    rfl

/-! ### Registers -/

/-- Settles O11: the register's own field, at its offset. -/
theorem registerReads : Obligations.RegisterReads := by
  intro s rest r hidle hs
  refine ⟨s.readReg r, ?_, ?_⟩
  · rw [step_read_idle hidle hs (regOffset_lt_windowSize r) (accessOk_regOffset r), State.readIdle_reg]
  have hstatus : s.readReg .status =
      packStatus s.tableValid s.treeValid s.errSub s.errCode s.overrun s.error s.done false := by
    rw [State.readReg, State.statusWord, State.busy, hidle]
  refine ⟨?_, ?_, ?_, ?_, ?_, ?_, ?_, ?_, ?_, ?_, ?_, ?_, ?_, ?_, ?_, ?_, ?_, ?_⟩ <;> rintro rfl
  case refine_3 => rw [hstatus]; exact packStatus_fields _ _ _ _ _ _ _ _
  all_goals rfl

/-- Settles O12: a write to a register is `writeReg` of it. -/
theorem registerWrites : Obligations.RegisterWrites := by
  intro s rest r v hidle hs hcmd
  refine ⟨_, step_write_idle hidle hs (regOffset_lt_windowSize r) (accessOk_regOffset r), ?_⟩
  rw [State.writeIdle_reg]
  refine ⟨?_, ?_, ?_, ?_, ?_, ?_⟩
  case refine_6 =>
    intro hr
    cases r
    case cmd => exact absurd rfl hcmd
    case status | irqEn | inLen | rdPtr | extLen => exact absurd hr (by decide)
    all_goals rfl
  all_goals rintro rfl; rfl

/-- Settles O10: every field is read off `State.afterReset`. -/
theorem resetValues : Obligations.ResetValues := by
  have hstatus : packStatus false false 0 0 false false false false = 0 := by decide
  have hreg (p : Params) (r : Reg) : (State.afterReset p).readReg r = if r = .id then 0x48554631
      else if r = .inCapR then BitVec.ofNat 32 p.inCap else if r = .outCapR then BitVec.ofNat 32 p.outCap else 0 := by
    cases r
    case status => exact hstatus
    all_goals rfl
  refine ⟨rfl, fun p => ⟨hreg p, rfl, rfl, fun b => ⟨?_, ?_, ?_⟩, fun i hi => ?_, fun n hn => ?_⟩⟩
  · simp [State.freqOf, State.afterReset]
  · simp [State.codeLenOf, State.afterReset]
  · simp [State.codeBitsOf, State.afterReset]
  · simp [State.orderAt, State.afterReset, Vector.getD, hi]
  · simp [nodeAt, State.afterReset, Vector.getD, hn]; rfl

/-- Settles O60: nothing is written, nothing runs, and both valid flags are 0. -/
theorem resetMeetsInvariants : Obligations.ResetMeetsInvariants where
  params := by decide
  mem := ⟨State.afterReset_mem_wf _, fun _ hc => absurd hc List.not_mem_nil⟩
  outLen := Nat.zero_le _
  errors := errorOk_of_none rfl rfl rfl
  busy := busyOk_of_idle rfl
  tree h := by cases h
  table h := by cases h

/-! ### The word windows -/

theorem regionOf_freq {off : Nat} (h1 : 0x400 ≤ off) (h2 : off < 0x800) : regionOf off = .freq := by
  unfold regionOf; grind

theorem regionOf_node {off : Nat} (h1 : 0x1000 ≤ off) (h2 : off < 0x2000) : regionOf off = .node := by
  unfold regionOf; grind

/-- Every region takes an aligned 4-byte access (20 R84). -/
theorem accessOk_four {off : Nat} (h : off % 4 = 0) : accessOk off .four = true := by
  have hr : ∀ r, regionAllows r .four = true := by intro r; cases r <;> rfl
  simp [accessOk, Width.bytes, h, hr]

theorem State.writeIdle_freq (s : State) {off : Nat} (h1 : 0x400 ≤ off) (h2 : off < 0x800) (n : Width) (v : Word) :
    s.writeIdle off n v = { s with freq := s.freq.setIfInBounds ((off - 0x400) / 4) v } := by
  simp only [State.writeIdle, regionOf_freq h1 h2]

theorem State.readIdle_freq (s : State) {off : Nat} (h1 : 0x400 ≤ off) (h2 : off < 0x800) (n : Width) (free : Word) :
    s.readIdle off n free = s.freq.getD ((off - 0x400) / 4) 0 := by
  simp only [State.readIdle, regionOf_freq h1 h2]

theorem State.readIdle_node (s : State) {off : Nat} (h1 : 0x1000 ≤ off) (h2 : off < 0x2000) (n : Width) (free : Word) :
    s.readIdle off n free = s.readNode (off - 0x1000) := by
  simp only [State.readIdle, regionOf_node h1 h2]

/-- Settles O17: the write is one update of the vector FREQ. -/
theorem freqWrite : Obligations.FreqWrite := by
  intro s rest b v hidle hs
  have hb := b.isLt
  rw [Nat.add_assoc] at hs
  have hidx : (0x400 + 4 * b.toNat - 0x400) / 4 = b.toNat := by omega
  refine ⟨_, step_write_idle hidle hs (by simp only [windowSize]; omega) (accessOk_four (by omega)), ?_⟩
  rw [State.writeIdle_freq _ (by omega) (by omega), hidx]
  refine ⟨?_, fun c hc => ?_, rfl⟩
  · simp [State.freqOf]
  · have hne : b.toNat ≠ c.toNat := fun h => hc (BitVec.eq_of_toNat_eq h.symm)
    simp [State.freqOf, hne]

theorem getD_of_ge {α : Type} {n : Nat} (v : Vector α n) {i : Nat} {d : α} (h : n ≤ i) : v.getD i d = d := by
  simp [Vector.getD, Nat.not_lt.2 h]

/-- An index past 510 names no entry of the node store (10 R59). -/
theorem nodeAt_of_ge (nodes : Vector Node 511) {n : Nat} (h : 511 ≤ n) : nodeAt nodes n = Node.empty :=
  getD_of_ge nodes h

/-- The fields of word 1 of a node store entry (10 R60). -/
theorem word1_fields (n : Node) :
    n.word1.extractLsb' 0 9 = n.left ∧ n.word1.extractLsb' 9 9 = n.right ∧ n.word1.extractLsb' 18 8 = n.sym ∧
    n.word1.extractLsb' 26 4 = 0 ∧ n.word1.getLsbD 30 = n.leaf ∧ n.word1.getLsbD 31 = n.valid := by
  unfold Node.word1
  refine ⟨extract_low, extract_above (by decide) extract_low, ?_, ?_, getLsbD_of_extract ?_, getLsbD_of_extract ?_⟩
  · iterate 2 refine extract_above (by decide) ?_
    exact extract_low
  · iterate 3 refine extract_above (by decide) ?_
    exact extract_low
  · iterate 4 refine extract_above (by decide) ?_
    exact extract_low
  · iterate 5 refine extract_above (by decide) ?_
    exact BitVec.extractLsb'_eq_self

theorem State.readNode_weight (s : State) (n : Nat) : s.readNode (8 * n) = (nodeAt s.nodes n).weight := by
  have h1 : 8 * n % 8 < 4 := by omega
  have h2 : 8 * n / 8 = n := by omega
  simp only [State.readNode, h1, h2, if_true]

theorem State.readNode_word1 (s : State) (n : Nat) : s.readNode (8 * n + 4) = (nodeAt s.nodes n).word1 := by
  have h1 : ¬ (8 * n + 4) % 8 < 4 := by omega
  have h2 : (8 * n + 4) / 8 = n := by omega
  simp only [State.readNode, h1, h2, if_false]

/-- Settles O19: FREQ and NODE by entry; entry 511 does not exist. -/
theorem wordWindowReads : Obligations.WordWindowReads := by
  intro s rest off hidle hs
  have freqRead (h1 : 0x400 ≤ off) (h2 : off < 0x800) (h4 : off % 4 = 0) : step s = .next { s with
      agenda := rest, response := .data (s.freq.getD ((off - 0x400) / 4) 0), draws := s.draws + 1 } := by
    rw [step_read_idle hidle hs (by simp only [windowSize]; omega) (accessOk_four h4),
      s.readIdle_freq h1 h2]
  have nodeRead {i : Nat} (h : off = 0x1000 + i) (h2 : i < 0x1000) (h4 : i % 4 = 0) : step s = .next { s with
      agenda := rest, response := .data (s.readNode i), draws := s.draws + 1 } := by
    have hi : off - 0x1000 = i := by omega
    rw [step_read_idle hidle hs (by simp only [windowSize]; omega) (accessOk_four (by omega)),
      s.readIdle_node (by omega) (by omega), hi]
  refine ⟨fun b hb => ?_, fun n hn hoff => ?_, fun n hn hoff => ⟨(nodeAt s.nodes n).word1, ?_, word1_fields _⟩, ?_⟩
  · have hlt := b.isLt
    have hidx : (off - 0x400) / 4 = b.toNat := by omega
    rw [freqRead (by omega) (by omega) (by omega), hidx]
    simp [State.freqOf, Vector.getD, hlt]
  · rw [nodeRead hoff (by omega) (by omega), s.readNode_weight]
  · rw [nodeRead ((Nat.add_assoc _ _ _).symm ▸ hoff) (by omega) (by omega), s.readNode_word1]
  · have hempty := nodeAt_of_ge s.nodes (Nat.le_refl 511)
    rintro (hoff | hoff)
    · have h : off = 0x1000 + 8 * 511 := hoff
      rw [nodeRead h (by decide) (by decide), s.readNode_weight, hempty]; rfl
    · have h : off = 0x1000 + (8 * 511 + 4) := hoff
      rw [nodeRead h (by decide) (by decide), s.readNode_word1, hempty]; rfl

/-! ### The byte windows -/

/-- The number whose base-256 digits, lowest first, are the bytes: the bus value of `joinLanes` before it is cut to a
word (20 R89). -/
def lanesVal (bs : List Byte) : Nat := bs.foldr (fun b acc => b.toNat + 256 * acc) 0

theorem joinLanes_eq (bs : List Byte) : joinLanes bs = BitVec.ofNat 32 (lanesVal bs) := rfl

theorem lanesVal_cons (b : Byte) (bs : List Byte) : lanesVal (b :: bs) = b.toNat + 256 * lanesVal bs := rfl

theorem lanesVal_lt (bs : List Byte) : lanesVal bs < 2 ^ (8 * bs.length) := by
  induction bs with
  | nil => decide
  | cons b rest ih =>
    have hb := b.isLt
    rw [lanesVal_cons, List.length_cons, Nat.mul_succ, Nat.pow_add]
    omega

theorem lanesVal_digit (bs : List Byte) (k : Nat) (h : k < bs.length) :
    lanesVal bs / 2 ^ (8 * k) % 2 ^ 8 = bs[k].toNat := by
  induction bs generalizing k with
  | nil => cases h
  | cons b rest ih =>
    have hb := b.isLt
    rw [lanesVal_cons]
    cases k with
    | zero => simp; omega
    | succ k =>
      have hd : (b.toNat + 256 * lanesVal rest) / 2 ^ (8 * (k + 1)) = lanesVal rest / 2 ^ (8 * k) := by
        rw [Nat.mul_succ, Nat.pow_add, Nat.mul_comm (2 ^ (8 * k)), ← Nat.div_div_eq_div_mul]
        congr 1; omega
      rw [hd, ih k (Nat.lt_of_succ_lt_succ h), List.getElem_cons_succ]

theorem joinLanes_toNat {bs : List Byte} (h : bs.length ≤ 4) : (joinLanes bs).toNat = lanesVal bs := by
  rw [joinLanes_eq, BitVec.toNat_ofNat]
  exact Nat.mod_eq_of_lt ((lanesVal_lt bs).trans_le (Nat.pow_le_pow_right (by decide) (by omega)))

/-- Each byte stands in its own lane (20 R89). -/
theorem joinLanes_lane {bs : List Byte} (h : bs.length ≤ 4) (k : Nat) (hk : k < bs.length) :
    (joinLanes bs).extractLsb' (8 * k) 8 = bs[k] := by
  apply BitVec.eq_of_toNat_eq
  rw [BitVec.extractLsb'_toNat, joinLanes_toNat h, Nat.shiftRight_eq_div_pow, lanesVal_digit bs k hk]

theorem bytes_le_four (n : Width) : n.bytes ≤ 4 := by cases n <;> decide

/-- The word windows take 4-byte accesses only (20 R84). -/
theorem accessOk_word {off : Nat} {n : Width} (hok : accessOk off n = true)
    (h : off < 0x800 ∨ (0x1000 ≤ off ∧ off < 0x2000)) : n = .four := by
  have hr : regionOf off = .reg ∨ regionOf off = .freq ∨ regionOf off = .node := by unfold regionOf; grind
  simp only [accessOk, Bool.and_eq_true] at hok
  obtain ⟨-, hw⟩ := hok
  rcases hr with hr | hr | hr <;> rw [hr] at hw <;> exact eq_of_beq hw

section
variable (s : State) (off : Nat) (n : Width) (free : Word)

theorem State.peekBytes_lane (k : Nat) (hk : k < n.bytes) :
    (s.peekBytes off n free).extractLsb' (8 * k) 8 = (s.peekByte (off + k)).getD (lane free k) := by
  rw [State.peekBytes, joinLanes_lane (by simpa using bytes_le_four n) k (by simpa using hk)]
  simp

theorem State.peekBytes_lt : (s.peekBytes off n free).toNat < 2 ^ (8 * n.bytes) := by
  rw [State.peekBytes, joinLanes_toNat (by simpa using bytes_le_four n)]
  refine (lanesVal_lt _).trans_eq ?_
  simp

/-- The word windows are those below 0x800 and from 0x1000 to 0x2000; any other read is by bytes (20 R84). -/
theorem State.readIdle_bytes (h : 0x800 ≤ off) (h' : off < 0x1000 ∨ 0x2000 ≤ off) :
    s.readIdle off n free = s.peekBytes off n free := by
  cases hr : regionOf off with
  | reg | freq | node => unfold regionOf at hr; grind
  | codeLen | order | ext | codeBits | inBuf | outBuf | reserved => simp only [State.readIdle, hr]

theorem State.readIdle_lt (hok : accessOk off n = true) : (s.readIdle off n free).toNat < 2 ^ (8 * n.bytes) := by
  by_cases h : 0x800 ≤ off ∧ (off < 0x1000 ∨ 0x2000 ≤ off)
  · rw [s.readIdle_bytes off n free h.1 h.2]
    exact s.peekBytes_lt off n free
  · obtain rfl : n = .four := accessOk_word hok (by omega)
    exact BitVec.isLt _

end

theorem regionOf_codeLen {off : Nat} (h1 : 0x800 ≤ off) (h2 : off < 0x900) : regionOf off = .codeLen := by
  unfold regionOf; grind

theorem regionOf_order {off : Nat} (h1 : 0x900 ≤ off) (h2 : off < 0xA00) : regionOf off = .order := by
  unfold regionOf; grind

theorem regionOf_ext {off : Nat} (h1 : 0xA00 ≤ off) (h2 : off < 0xB00) : regionOf off = .ext := by
  unfold regionOf; grind

theorem regionOf_codeBits {off : Nat} (h1 : 0x2000 ≤ off) (h2 : off < 0x4000) : regionOf off = .codeBits := by
  unfold regionOf; grind

theorem regionOf_inBuf {off : Nat} (h1 : 0x1000000 ≤ off) (h2 : off < 0x2000000) : regionOf off = .inBuf := by
  unfold regionOf; grind

theorem regionOf_outBuf {off : Nat} (h1 : 0x2000000 ≤ off) (h2 : off < 0x3000000) : regionOf off = .outBuf := by
  unfold regionOf; grind

theorem regionOf_reserved {off : Nat}
    (h : (0xB00 ≤ off ∧ off < 0x1000) ∨ (0x4000 ≤ off ∧ off < 0x1000000) ∨ 0x3000000 ≤ off) :
    regionOf off = .reserved := by
  unfold regionOf; grind

/-- The entry of a table of 256 that a byte selects. -/
theorem getD_eq_getElem_ofNat {α : Type} (v : Vector α 256) {i : Nat} {d : α} (h : i < 256) :
    v.getD i d = v[(BitVec.ofNat 8 i).toNat]'(BitVec.isLt _) := by
  simp [Vector.getD, h, Nat.mod_eq_of_lt h]

/-! What one byte of a byte window reads as, by window. -/

section
variable (s : State) {a : Nat}

theorem State.peekByte_codeLen (h : 0x800 ≤ a) (h' : a < 0x900) :
    s.peekByte a = some (s.codeLenOf (BitVec.ofNat 8 (a - 0x800))) := by
  have hr := regionOf_codeLen h h'
  have hlt : a - 0x800 < 256 := by omega
  simp only [State.peekByte, hr, State.codeLenOf, getD_eq_getElem_ofNat _ hlt]

theorem State.peekByte_order (h : 0x900 ≤ a) (h' : a < 0xA00) : s.peekByte a = some (s.orderAt (a - 0x900)) := by
  have hr := regionOf_order h h'
  simp only [State.peekByte, hr, State.orderAt]

theorem State.peekByte_ext (h : 0xA00 ≤ a) (h' : a < 0xAFF) : s.peekByte a = some (s.extByte (a - 0xA00)) := by
  have hr := regionOf_ext h (by omega)
  have hlt : a - extBase < 255 := by unfold extBase; omega
  have ha : extBase + (a - 0xA00) = a := Nat.add_sub_cancel' h
  simp only [State.peekByte, hr, hlt, if_true, State.extByte, ha]

theorem State.peekByte_codeBits (h : 0x2000 ≤ a) (h' : a < 0x4000) :
    s.peekByte a =
      some (codeByte (s.codeBitsOf (BitVec.ofNat 8 ((a - 0x2000) / 32))) ((a - 0x2000) % 32)) := by
  have hr := regionOf_codeBits h h'
  have hlt : (a - 0x2000) / 32 < 256 := by omega
  simp only [State.peekByte, hr, State.codeBitsOf, getD_eq_getElem_ofNat _ hlt]

theorem State.peekByte_inBuf (h : 0x1000000 ≤ a) (h' : a < 0x2000000) :
    s.peekByte a = some (if a - 0x1000000 < s.params.inCap then s.inByte (a - 0x1000000) else 0) := by
  have hr := regionOf_inBuf h h'
  have ha : inBase + (a - inBase) = a := Nat.add_sub_cancel' h
  have hb : a - 0x1000000 = a - inBase := by unfold inBase; rfl
  simp only [State.peekByte, hr, State.inByte, hb, ha]

theorem State.peekByte_outBuf (h : 0x2000000 ≤ a) (h' : a < 0x3000000) :
    s.peekByte a =
      if a - 0x2000000 < s.params.outCap then
        if a - 0x2000000 < s.outLen.toNat then some (s.outByte (a - 0x2000000)) else none
      else some 0 := by
  have hr := regionOf_outBuf h h'
  have ha : outBase + (a - outBase) = a := Nat.add_sub_cancel' h
  have hb : a - 0x2000000 = a - outBase := by unfold outBase; rfl
  simp only [State.peekByte, hr, State.outByte, hb, ha]

/-- The last byte of the EXT window and the reserved ranges read 0 (20 R85). -/
theorem State.peekByte_reserved
    (h : (0xAFF ≤ a ∧ a < 0x1000) ∨ (0x4000 ≤ a ∧ a < 0x1000000) ∨ 0x3000000 ≤ a) : s.peekByte a = some 0 := by
  by_cases ha : a = 0xAFF
  · subst ha; rfl
  · have hr : regionOf a = .reserved := regionOf_reserved (by omega)
    simp only [State.peekByte, hr]

end

/-- An access does not leave its aligned block of four bytes. -/
theorem accessOk_block {off k : Nat} {n : Width} (hok : accessOk off n = true) (hk : k < n.bytes) :
    off / 4 = (off + k) / 4 := by
  have hal : off % n.bytes = 0 := by
    simp only [accessOk, Bool.and_eq_true, beq_iff_eq] at hok
    exact hok.1
  cases n <;> simp only [Width.bytes] at hal hk <;> omega

/-- Settles O18: the read is by bytes, one lane for each, and each byte is its window's. -/
theorem byteWindowReads : Obligations.ByteWindowReads := by
  intro s rest off n hidle hoff hok hs
  refine ⟨_, step_read_idle hidle hs hoff hok, s.readIdle_lt off n _ hok, ?_⟩
  rintro k a hk rfl
  have hblock := accessOk_block hok hk
  have hlane (hw : 0x800 ≤ off + k) (hw' : off + k < 0x1000 ∨ 0x2000 ≤ off + k) :
      (s.readIdle off n (Config.freeWord s.draws)).extractLsb' (8 * k) 8 =
        (s.peekByte (off + k)).getD (lane (Config.freeWord s.draws) k) := by
    rw [s.readIdle_bytes off n _ (by omega) (by omega), s.peekBytes_lane off n _ k hk]
  refine ⟨fun h h' => ?_, fun h h' => ?_, fun h h' => ?_, fun h h' => ?_, fun h h' => ?_, fun h h' => ?_,
    fun h h' => ?_, fun h h' hc => ?_, fun h h' hc hl => ?_, fun h => ?_⟩ <;> rw [hlane (by omega) (by omega)]
  · rw [s.peekByte_codeLen h h', Option.getD_some]
  · rw [s.peekByte_order h h', Option.getD_some]
  · rw [s.peekByte_ext h h', Option.getD_some]
  · rw [s.peekByte_reserved (.inl ⟨h, h'⟩), Option.getD_some]
  · rw [s.peekByte_codeBits h h', Option.getD_some]
  · rw [s.peekByte_reserved (.inr (.inl ⟨h, h'⟩)), Option.getD_some]
  · rw [s.peekByte_inBuf h h', Option.getD_some]
  · rw [s.peekByte_outBuf h h', if_neg (Nat.not_lt.2 hc), Option.getD_some]
  · rw [s.peekByte_outBuf h h', if_pos hc, if_pos hl, Option.getD_some]
  · rw [s.peekByte_reserved (.inr (.inr h)), Option.getD_some]

end Sys2Proof.Machine

/-! PROOFS. A property of the tree and the code table is kept by every step when BUILD, GENCODE and PARSE_TABLE keep it
and it holds while both valid flags are 0: no other command, and nothing at the port, writes them otherwise (30 R114). -/

namespace Sys2Proof.Machine

open Sys2Proof.Safety

/-- A host write reaches neither the tree nor the code table. -/
theorem Written.coding_eq {s t : State} (h : Written s t) : t.coding = s.coding := by cases h <;> rfl

/-- What makes `P` a property of the tree and the code table that every step keeps. -/
structure CodingInvariant (P : State → Prop) : Prop where
  congr : ∀ {s t}, P s → t.coding = s.coding → P t
  cleared : ∀ {s}, s.treeValid = false → s.tableValid = false → P s
  build : ∀ s, P s → (buildBody s).Leaves P
  gencode : ∀ s, P s → (gencodeBody s).Leaves P
  parseTable : ∀ s, P s → (parseTableBody s).Leaves P

namespace CodingInvariant

variable {P : State → Prop} (hP : CodingInvariant P)
include hP

theorem blocks_leaves {s : State} {r : Ran} (h : r.Leaves (BlocksOnly s)) (hs : P s) : r.Leaves P :=
  h.mono fun _ ht => hP.congr hs ht.coding

theorem countBody_leaves (s : State) (hs : P s) : (countBody s).Leaves P :=
  State.checkInLen_leaves hs (hP.cleared rfl rfl)

theorem compressSteps_leaves (s : State) : (compressSteps s).Leaves P := by
  refine Ran.Leaves.andThen (hP.countBody_leaves _ (hP.cleared rfl rfl)) fun s1 h1 => ?_
  refine Ran.Leaves.andThen (hP.blocks_leaves (emitExtBody_leaves s1) h1) fun s2 h2 => ?_
  split
  · refine Ran.Leaves.andThen (hP.build s2 h2) fun s3 h3 => ?_
    refine Ran.Leaves.andThen (hP.gencode s3 h3) fun s4 h4 => ?_
    refine Ran.Leaves.andThen (hP.blocks_leaves (emitTableBody_leaves s4) h4) fun s5 h5 => ?_
    exact hP.blocks_leaves (packBody_leaves s5) h5
  · exact h2

theorem decompressSteps_leaves (s : State) : (decompressSteps s).Leaves P := by
  unfold decompressSteps
  have hparse := parseExtBody_leaves { s with outLen := 0, rdPtr := 0, treeValid := false, tableValid := false }
  cases hr : parseExtBody { s with outLen := 0, rdPtr := 0, treeValid := false, tableValid := false } with
  | raised e i u =>
    rw [hr] at hparse
    exact hP.congr (hP.cleared rfl rfl) hparse.coding
  | ok s1 =>
    rw [hr] at hparse
    have htree : s1.treeValid = false := congrArg Coding.treeValid hparse.coding
    have htable : s1.tableValid = false := congrArg Coding.tableValid hparse.coding
    rw [Ran.andThen_ok]
    split
    · refine Ran.Leaves.andThen (hP.parseTable s1 (hP.cleared htree htable)) fun s2 h2 => ?_
      exact hP.blocks_leaves (unpackBody_leaves s2) h2
    · exact hP.cleared htree htable

theorem wholeRun_leaves {s : State} {steps : State → Ran} (hs : P s) (h : (steps s).Leaves P) :
    (s.checkInLen steps).dropOutput.Leaves P :=
  (State.checkInLen_leaves hs h).dropOutput fun _ ht => hP.congr ht rfl

theorem body_leaves (i : Instr) (s : State) (hs : P s) : (body i s).Leaves P := by
  cases i with
  | nop => exact hs
  | clear => exact hP.cleared rfl rfl
  | count => exact hP.countBody_leaves s hs
  | build => exact hP.build s hs
  | gencode => exact hP.gencode s hs
  | emitExt => exact hP.blocks_leaves (emitExtBody_leaves s) hs
  | emitTable => exact hP.blocks_leaves (emitTableBody_leaves s) hs
  | pack => exact hP.blocks_leaves (packBody_leaves s) hs
  | parseExt => exact hP.blocks_leaves (parseExtBody_leaves s) hs
  | parseTable => exact hP.parseTable s hs
  | unpack => exact hP.blocks_leaves (unpackBody_leaves s) hs
  | compress => exact hP.wholeRun_leaves hs (hP.compressSteps_leaves s)
  | decompress => exact hP.wholeRun_leaves hs (hP.decompressSteps_leaves s)

theorem of_complete {r : Ran} (h : r.Leaves P) : P r.complete := by
  cases r with
  | ok t => exact hP.congr h rfl
  | raised e i t => exact hP.congr h rfl

theorem of_move {s t : State} (h : Move s t) (hs : P s) : P t := by
  cases h with
  | command i => exact hP.of_complete (hP.body_leaves i s.start (hP.congr hs rfl))
  | illegal w => exact hP.congr hs rfl
  | reset => exact hP.cleared rfl rfl
  | write u hu => exact hP.congr hs hu.coding_eq
  | stay | endReset | busError | read => exact hP.congr hs rfl

/-- Every step keeps the property. -/
theorem of_step {s t : State} (hs : P s) (h : step s = .next t) : P t := by
  obtain ⟨rest, hmove⟩ := step_moves h
  exact hP.of_move hmove (hP.congr hs rfl)

end CodingInvariant

end Sys2Proof.Machine

/-! PROOFS. The merge loop of BUILD (40 R155–R160) as an invariant of its node store and its queue, and that BUILD
leaves a tree. -/

namespace Sys2Proof.Machine

open Sys2Proof.Safety

/-- `n` is an internal node in use with `c` as a child, in a bare node store. -/
def Parent (nodes : Vector Node 511) (n c : Nat) : Prop :=
  (256 ≤ n ∧ (nodeAt nodes n).valid = true) ∧ ((nodeAt nodes n).left.toNat = c ∨ (nodeAt nodes n).right.toNat = c)

theorem parent_iff (s : State) (n c : Nat) : Parent s.nodes n c ↔ Internal s n ∧ Child s n c := Iff.rfl

theorem lt_of_valid {nodes : Vector Node 511} {n : Nat} (h : (nodeAt nodes n).valid = true) : n < 511 := by
  by_contra hn
  rw [nodeAt_of_ge nodes (Nat.not_lt.1 hn)] at h
  cases h

theorem nodeAt_of_lt (nodes : Vector Node 511) {n : Nat} (h : n < 511) : nodeAt nodes n = nodes[n] := by
  simp [nodeAt, Vector.getD, h]

theorem nodeAt_setIfInBounds (nodes : Vector Node 511) {i : Nat} (hi : i < 511) (v : Node) (n : Nat) :
    nodeAt (nodes.setIfInBounds i v) n = if n = i then v else nodeAt nodes n := by
  by_cases hn : n < 511
  · rw [nodeAt_of_lt _ hn, nodeAt_of_lt _ hn, Vector.getElem_setIfInBounds hn]
    simp only [eq_comm]
  · have hne : n ≠ i := by omega
    rw [nodeAt_of_ge _ (Nat.not_lt.1 hn), nodeAt_of_ge _ (Nat.not_lt.1 hn), if_neg hne]

/-! ### The leaves -/

theorem nodeAt_leafNodes (freq : Vector Word 256) (n : Nat) :
    nodeAt (leafNodes freq) n = if freq.getD n 0 = 0 then Node.empty else Node.ofLeaf n (freq.getD n 0) := by
  by_cases hn : n < 511
  · rw [nodeAt_of_lt _ hn, leafNodes, tabulate_getElem]
    by_cases h : freq.getD n 0 = 0
    · rw [if_pos h, h]; rfl
    · rw [if_neg h, if_pos (bne_iff_ne.2 h)]
  · have h0 : freq.getD n 0 = 0 := getD_of_ge freq (by omega)
    rw [nodeAt_of_ge _ (Nat.not_lt.1 hn), h0, if_pos rfl]

theorem mem_presentSymbols (freq : Vector Word 256) (n : Nat) : n ∈ presentSymbols freq ↔ freq.getD n 0 ≠ 0 := by
  have h : freq.getD n 0 ≠ 0 → n < 256 := by
    intro h; by_contra hn; exact h (getD_of_ge freq (Nat.not_lt.1 hn))
  rw [presentSymbols_eq, List.mem_filter, List.mem_range]
  simp only [bne_iff_ne]
  exact ⟨And.right, fun hn => ⟨h hn, hn⟩⟩

theorem leafNodes_valid (freq : Vector Word 256) (n : Nat) :
    (nodeAt (leafNodes freq) n).valid = true ↔ n ∈ presentSymbols freq := by
  rw [nodeAt_leafNodes, mem_presentSymbols]
  split <;> simp_all [Node.empty, Node.ofLeaf]

theorem presentSymbols_nodup (freq : Vector Word 256) : (presentSymbols freq).Nodup := by
  rw [presentSymbols_eq]; exact List.nodup_range.filter _

theorem presentSymbols_length_le (freq : Vector Word 256) : (presentSymbols freq).length ≤ 256 := by
  rw [presentSymbols_eq]; exact (List.length_filter_le _ _).trans_eq (List.length_range)

theorem presentSymbols_lt {freq : Vector Word 256} {n : Nat} (h : n ∈ presentSymbols freq) : n < 256 := by
  rw [presentSymbols_eq] at h; exact List.mem_range.1 (List.mem_filter.1 h).1

/-! ### The least node of the queue is in the queue -/

theorem minKey_mem (nodes : Vector Node 511) {q : List Nat} (h : q ≠ []) : minKey nodes q ∈ q := by
  have fold (l : List Nat) (m : Nat) : l.foldl (fun m k => if keyLess nodes k m then k else m) m ∈ m :: l := by
    induction l generalizing m with
    | nil => exact List.mem_singleton.2 rfl
    | cons k rest ih =>
      rw [List.foldl_cons]
      rcases List.mem_cons.1 (ih (if keyLess nodes k m then k else m)) with hm | hm
      · rw [hm]; split
        · exact List.mem_cons_of_mem _ List.mem_cons_self
        · exact List.mem_cons_self
      · exact List.mem_cons_of_mem _ (List.mem_cons_of_mem _ hm)
  cases q with
  | nil => exact absurd rfl h
  | cons n rest => exact fold rest n

/-! ### The invariant of the merge loop -/

/-- Each internal node made so far is a merge of two older nodes, and the queue holds exactly the valid nodes without a
parent. -/
structure Merge.Ok (freq : Vector Word 256) (m : Merge) : Prop where
  lower : ∀ n, n < 256 → nodeAt m.nodes n = nodeAt (leafNodes freq) n
  next_ge : 256 ≤ m.next
  size : m.next + m.queue.length = 256 + (presentSymbols freq).length
  unused : ∀ n, m.next ≤ n → nodeAt m.nodes n = Node.empty
  made : ∀ n, 256 ≤ n → n < m.next → (nodeAt m.nodes n).valid = true
  inner : ∀ n, 256 ≤ n → n < m.next → (nodeAt m.nodes n).leaf = false ∧ (nodeAt m.nodes n).sym = 0 ∧
    (nodeAt m.nodes n).weight =
      (nodeAt m.nodes (nodeAt m.nodes n).left.toNat).weight + (nodeAt m.nodes (nodeAt m.nodes n).right.toNat).weight
  distinct : ∀ n, 256 ≤ n → n < m.next → (nodeAt m.nodes n).left ≠ (nodeAt m.nodes n).right
  older : ∀ n c, Parent m.nodes n c → (nodeAt m.nodes c).valid = true ∧ c < n
  onlyParent : ∀ c n n', Parent m.nodes n c → Parent m.nodes n' c → n = n'
  nodup : m.queue.Nodup
  queued : ∀ c, c ∈ m.queue ↔ (nodeAt m.nodes c).valid = true ∧ ∀ n, ¬ Parent m.nodes n c

theorem not_parent_leafNodes (freq : Vector Word 256) (n c : Nat) : ¬ Parent (leafNodes freq) n c := by
  rintro ⟨⟨hn, hv⟩, -⟩
  have := presentSymbols_lt ((leafNodes_valid freq n).1 hv)
  omega

/-- The leaves alone meet the invariant. -/
theorem Merge.Ok.start (freq : Vector Word 256) : Merge.Ok freq ⟨leafNodes freq, presentSymbols freq, 256⟩ where
  lower _ _ := rfl
  next_ge := Nat.le_refl _
  size := rfl
  unused n hn := by
    have h0 : freq.getD n 0 = 0 := getD_of_ge freq hn
    show nodeAt (leafNodes freq) n = Node.empty
    rw [nodeAt_leafNodes, h0, if_pos rfl]
  made n h1 h2 := absurd h2 (Nat.not_lt.2 h1)
  inner n h1 h2 := absurd h2 (Nat.not_lt.2 h1)
  distinct n h1 h2 := absurd h2 (Nat.not_lt.2 h1)
  older n c h := absurd h (not_parent_leafNodes freq n c)
  onlyParent c n n' h := absurd h (not_parent_leafNodes freq n c)
  nodup := presentSymbols_nodup freq
  queued c := by
    rw [leafNodes_valid]
    exact (and_iff_left fun n => not_parent_leafNodes freq n c).symm

/-! #### One merge -/

/-- The lesser of the two nodes a merge takes. -/
def Merge.first (m : Merge) : Nat := minKey m.nodes m.queue

/-- The greater of the two nodes a merge takes. -/
def Merge.second (m : Merge) : Nat := minKey m.nodes (m.queue.erase m.first)

/-- The internal node a merge makes. -/
def Merge.node (m : Merge) : Node :=
  ⟨true, false, 0, (nodeAt m.nodes m.first).weight + (nodeAt m.nodes m.second).weight, BitVec.ofNat 9 m.first,
    BitVec.ofNat 9 m.second⟩

theorem Merge.once_eq (m : Merge) :
    m.once = ⟨m.nodes.setIfInBounds m.next m.node, m.next :: (m.queue.erase m.first).erase m.second, m.next + 1⟩ := rfl

section
variable {freq : Vector Word 256} {m : Merge}

theorem Merge.first_mem (h2 : 2 ≤ m.queue.length) : m.first ∈ m.queue :=
  minKey_mem _ (List.ne_nil_of_length_pos (by omega))

theorem Merge.second_mem_erase (h2 : 2 ≤ m.queue.length) : m.second ∈ m.queue.erase m.first := by
  have h1 := List.length_erase_of_mem (Merge.first_mem h2)
  exact minKey_mem _ (List.ne_nil_of_length_pos (by omega))

theorem Merge.once_length (h2 : 2 ≤ m.queue.length) : m.once.queue.length = m.queue.length - 1 := by
  rw [Merge.once_eq, List.length_cons, List.length_erase_of_mem (Merge.second_mem_erase h2),
    List.length_erase_of_mem (Merge.first_mem h2)]
  omega

namespace Merge.Ok

variable (h : m.Ok freq)
include h

theorem lt_next {c : Nat} (hv : (nodeAt m.nodes c).valid = true) : c < m.next := by
  by_contra hc
  rw [h.unused c (Nat.not_lt.1 hc)] at hv
  cases hv

theorem next_not_mem : m.next ∉ m.queue := fun hq => Nat.lt_irrefl _ (h.lt_next ((h.queued _).1 hq).1)

theorem next_not_parent (c : Nat) : ¬ Parent m.nodes m.next c := fun hp => Nat.lt_irrefl _ (h.lt_next hp.1.2)

theorem parent_next (n : Nat) : ¬ Parent m.nodes n m.next := fun hp =>
  Nat.lt_irrefl _ (h.lt_next (h.older n _ hp).1)

variable (h2 : 2 ≤ m.queue.length)
include h2

/-- What makes `c` one of the two nodes a merge takes: it is valid, not the next one, and nobody's child. -/
theorem taken {c : Nat} (hc : m.first = c ∨ m.second = c) :
    (nodeAt m.nodes c).valid = true ∧ c < m.next ∧ ∀ n, ¬ Parent m.nodes n c := by
  have hq : c ∈ m.queue := by
    rcases hc with rfl | rfl
    · exact first_mem h2
    · exact List.mem_of_mem_erase (second_mem_erase h2)
  obtain ⟨hv, hp⟩ := (h.queued c).1 hq
  exact ⟨hv, h.lt_next hv, hp⟩

theorem second_ne_first : m.second ≠ m.first := (h.nodup.mem_erase_iff.1 (second_mem_erase h2)).1

theorem next_lt : m.next < 511 := by
  have := h.size
  have := presentSymbols_length_le freq
  omega

theorem node_left : m.node.left.toNat = m.first := by
  have := (h.taken h2 (.inl rfl)).2.1
  have := h.next_lt h2
  exact Nat.mod_eq_of_lt (by omega)

theorem node_right : m.node.right.toNat = m.second := by
  have := (h.taken h2 (.inr rfl)).2.1
  have := h.next_lt h2
  exact Nat.mod_eq_of_lt (by omega)

theorem once_next : nodeAt m.once.nodes m.next = m.node :=
  (nodeAt_setIfInBounds m.nodes (h.next_lt h2) m.node _).trans (if_pos rfl)

theorem once_old {n : Nat} (hn : n ≠ m.next) : nodeAt m.once.nodes n = nodeAt m.nodes n :=
  (nodeAt_setIfInBounds m.nodes (h.next_lt h2) m.node _).trans (if_neg hn)

theorem once_valid (c : Nat) :
    (nodeAt m.once.nodes c).valid = true ↔ c = m.next ∨ (nodeAt m.nodes c).valid = true := by
  by_cases hc : c = m.next
  · rw [hc, h.once_next h2]; exact ⟨fun _ => .inl rfl, fun _ => rfl⟩
  · rw [h.once_old h2 hc]; exact (or_iff_right hc).symm

theorem once_parent (n c : Nat) :
    Parent m.once.nodes n c ↔ (n = m.next ∧ (m.first = c ∨ m.second = c)) ∨ Parent m.nodes n c := by
  by_cases hn : n = m.next
  · subst hn
    rw [Parent, h.once_next h2, h.node_left h2, h.node_right h2]
    simp [h.next_not_parent c, h.next_ge, Merge.node]
  · rw [Parent, h.once_old h2 hn]
    simp [hn, Parent]

theorem once_inner (n : Nat) (h1 : 256 ≤ n) (hn : n < m.next + 1) :
    (nodeAt m.once.nodes n).leaf = false ∧ (nodeAt m.once.nodes n).sym = 0 ∧
    (nodeAt m.once.nodes n).weight = (nodeAt m.once.nodes (nodeAt m.once.nodes n).left.toNat).weight +
      (nodeAt m.once.nodes (nodeAt m.once.nodes n).right.toNat).weight := by
  have old {c : Nat} (hc : c < m.next) := h.once_old h2 (Nat.ne_of_lt hc)
  rcases Nat.lt_succ_iff_lt_or_eq.1 hn with hn | rfl
  · have child {c : Nat} (hc : (nodeAt m.nodes n).left.toNat = c ∨ (nodeAt m.nodes n).right.toNat = c) : c < m.next :=
      h.lt_next (h.older n c ⟨⟨h1, h.made n h1 hn⟩, hc⟩).1
    rw [old hn, old (child (.inl rfl)), old (child (.inr rfl))]
    exact h.inner n h1 hn
  · rw [h.once_next h2, h.node_left h2, h.node_right h2, old (h.taken h2 (.inl rfl)).2.1,
      old (h.taken h2 (.inr rfl)).2.1]
    exact ⟨rfl, rfl, rfl⟩

theorem once_onlyParent (c n n' : Nat) (hp : Parent m.once.nodes n c) (hp' : Parent m.once.nodes n' c) : n = n' := by
  rcases (h.once_parent h2 n c).1 hp with ⟨rfl, hc⟩ | hp <;>
    rcases (h.once_parent h2 n' c).1 hp' with ⟨rfl, hc'⟩ | hp'
  · rfl
  · exact absurd hp' ((h.taken h2 hc).2.2 n')
  · exact absurd hp ((h.taken h2 hc').2.2 n)
  · exact h.onlyParent c n n' hp hp'

theorem once_queued (c : Nat) :
    c ∈ m.once.queue ↔ (nodeAt m.once.nodes c).valid = true ∧ ∀ n, ¬ Parent m.once.nodes n c := by
  have hmem : c ∈ m.once.queue ↔ c = m.next ∨ c ≠ m.second ∧ c ≠ m.first ∧ c ∈ m.queue := by
    rw [Merge.once_eq, List.mem_cons, (h.nodup.erase _).mem_erase_iff, h.nodup.mem_erase_iff]
  rw [hmem, h.queued, h.once_valid h2]
  simp only [h.once_parent h2, not_or]
  by_cases hc : c = m.next
  · subst hc
    have free {d : Nat} (hd : m.first = d ∨ m.second = d) : d ≠ m.next := Nat.ne_of_lt (h.taken h2 hd).2.1
    simp [free (.inl rfl), free (.inr rfl), h.parent_next]
  · constructor
    · rintro (rfl | ⟨h1, h3, hv, hp⟩)
      · exact absurd rfl hc
      · exact ⟨.inr hv, fun n => ⟨fun hn => hn.2.elim (h3 ·.symm) (h1 ·.symm), hp n⟩⟩
    · rintro ⟨hv, hp⟩
      have hp0 := (hp m.next).1
      exact .inr ⟨fun h1 => hp0 ⟨rfl, .inr h1.symm⟩, fun h1 => hp0 ⟨rfl, .inl h1.symm⟩, hv.resolve_left hc,
        fun n => (hp n).2⟩

/-- A merge keeps the invariant. -/
theorem once : m.once.Ok freq where
  lower n hn := by
    have := h.next_ge
    rw [h.once_old h2 (by omega), h.lower n hn]
  next_ge := Nat.le_succ_of_le h.next_ge
  size := by
    have hnext : m.once.next = m.next + 1 := rfl
    have := h.size
    rw [once_length h2, hnext]
    omega
  unused n hn := by
    have hn' : m.next + 1 ≤ n := hn
    rw [h.once_old h2 (by omega), h.unused n (by omega)]
  made n h1 hn := (h.once_valid h2 n).2 ((Nat.lt_succ_iff_lt_or_eq.1 hn).symm.imp_right (h.made n h1))
  inner := h.once_inner h2
  distinct n h1 hn := by
    rcases Nat.lt_succ_iff_lt_or_eq.1 hn with hn | rfl
    · rw [h.once_old h2 (Nat.ne_of_lt hn)]
      exact h.distinct n h1 hn
    · rw [h.once_next h2]
      intro heq
      exact h.second_ne_first h2 (by rw [← h.node_left h2, ← h.node_right h2, heq])
  older n c hp := by
    rcases (h.once_parent h2 n c).1 hp with ⟨rfl, hc⟩ | hp
    · obtain ⟨hv, hlt, -⟩ := h.taken h2 hc
      exact ⟨(h.once_valid h2 c).2 (.inr hv), hlt⟩
    · obtain ⟨hv, hlt⟩ := h.older n c hp
      exact ⟨(h.once_valid h2 c).2 (.inr hv), hlt⟩
  onlyParent := h.once_onlyParent h2
  nodup := List.nodup_cons.2 ⟨fun hq => h.next_not_mem (List.mem_of_mem_erase (List.mem_of_mem_erase hq)),
    (h.nodup.erase _).erase _⟩
  queued := h.once_queued h2

end Merge.Ok

/-- The merge loop keeps the invariant. -/
theorem Merge.Ok.loop (fuel : Nat) (h : m.Ok freq) : (Merge.loop fuel m).Ok freq := by
  induction fuel generalizing m with
  | zero => exact h
  | succ fuel ih =>
    unfold Merge.loop
    split
    · exact h
    · exact ih (h.once (by omega))

/-- The merge loop leaves one node in the queue when it has rounds enough (40 R158). -/
theorem Merge.loop_length (fuel : Nat) (h1 : 1 ≤ m.queue.length) (hf : m.queue.length ≤ fuel + 1) :
    (Merge.loop fuel m).queue.length = 1 := by
  induction fuel generalizing m with
  | zero => exact Nat.le_antisymm hf h1
  | succ fuel ih =>
    unfold Merge.loop
    split
    · omega
    · have := Merge.once_length (show 2 ≤ m.queue.length by omega)
      exact ih (by omega) (by omega)

end

/-! ### The tree -/

theorem mergeAll_ok (freq : Vector Word 256) : (mergeAll freq).Ok freq := (Merge.Ok.start freq).loop 255

theorem mergeAll_queue {freq : Vector Word 256} (h : 1 ≤ (presentSymbols freq).length) :
    ∃ r, (mergeAll freq).queue = [r] :=
  List.length_eq_one_iff.1 (Merge.loop_length 255 h (presentSymbols_length_le freq))

/-- A merged node store is a tree, its root the last node of the queue. -/
theorem Merge.Ok.tree {freq : Vector Word 256} {m : Merge} (h : m.Ok freq) {r : Nat} (hq : m.queue = [r]) {t : State}
    (hnodes : t.nodes = m.nodes) (hroot : t.root.toNat = r) (hnsym : t.nsym.toNat = (presentSymbols freq).length)
    (h1 : 1 ≤ (presentSymbols freq).length) (hnnodes : t.nnodes.toNat = 2 * t.nsym.toNat - 1) : Tree t := by
  have hsize : m.next = 256 + (t.nsym.toNat - 1) := by
    have := h.size
    rw [hq, List.length_singleton] at this
    omega
  have internal {n : Nat} (hi : Internal t n) : 256 ≤ n ∧ n < m.next := ⟨hi.1, h.lt_next (hnodes ▸ hi.2)⟩
  have parent {n c : Nat} (hi : Internal t n) (hc : Child t n c) : Parent m.nodes n c := hnodes ▸ ⟨hi, hc⟩
  have hrootq := (h.queued r).1 (by rw [hq]; exact List.mem_singleton.2 rfl)
  have hleaf (n : Nat) (hn : n < 256) : nodeAt t.nodes n = nodeAt (leafNodes freq) n := by rw [hnodes, h.lower n hn]
  exact {
    count := hnsym ▸ ⟨h1, presentSymbols_length_le freq⟩
    size := hnnodes
    leaf := fun n hn => by
      rw [hleaf n hn, nodeAt_leafNodes]
      split
      · exact .inl rfl
      · exact .inr rfl
    leaves := by
      rw [hnsym, presentSymbols_eq]
      refine congrArg List.length (List.filter_congr fun n hn => ?_)
      rw [hleaf n (List.mem_range.1 hn), Bool.eq_iff_iff, leafNodes_valid, mem_presentSymbols, bne_iff_ne]
    internals := fun n hn => by
      rw [hnodes, ← hsize]
      exact ⟨h.lt_next, h.made n hn⟩
    unused := fun n hn => by rw [hnodes, h.unused n (hsize ▸ hn)]
    inner := fun n hi => by
      rw [hnodes]
      exact h.inner n (internal hi).1 (internal hi).2
    older := fun n c hi hc => by
      rw [hnodes]
      exact h.older n c (parent hi hc)
    distinct := fun n hi => by
      rw [hnodes]
      exact h.distinct n (internal hi).1 (internal hi).2
    owned := fun c hv hc => by
      have hnot : ¬ c ∈ m.queue := by rw [hq, List.mem_singleton, ← hroot]; exact hc
      rw [hnodes] at hv
      have hex : ∃ n, Parent m.nodes n c := by
        by_contra hno
        exact hnot ((h.queued c).2 ⟨hv, fun n hp => hno ⟨n, hp⟩⟩)
      obtain ⟨n, hp⟩ := hex
      exact ⟨n, (parent_iff t n c).1 (hnodes ▸ hp), fun n' hp' => h.onlyParent c n' n (parent hp'.1 hp'.2) hp⟩
    top := by
      rw [hroot, hnodes]
      exact ⟨hrootq.1, fun n hi hc => hrootq.2 n (parent hi hc)⟩
    rootIndex := fun hn => by
      have hlast : m.next - 1 ∈ m.queue := by
        refine (h.queued _).2 ⟨h.made _ (by omega) (by omega), fun n hp => ?_⟩
        have := h.lt_next hp.1.2
        have := (h.older _ _ hp).2
        omega
      rw [hq, List.mem_singleton] at hlast
      omega
    rootLeaf := fun hn => by
      have := h.lt_next hrootq.1
      omega }

/-! ### BUILD -/

/-- Being a tree is a matter of four fields. -/
theorem tree_congr {s t : State} (h : Tree s) (hnodes : t.nodes = s.nodes) (hnsym : t.nsym = s.nsym)
    (hroot : t.root = s.root) (hnnodes : t.nnodes = s.nnodes) : Tree t := by
  cases s; cases t
  dsimp only at hnodes hnsym hroot hnnodes
  subst hnodes hnsym hroot hnnodes
  exact ⟨h.count, h.size, h.leaf, h.leaves, h.internals, h.unused, h.inner, h.older, h.distinct, h.owned, h.top,
    h.rootIndex, h.rootLeaf⟩

theorem treeOk_congr {s t : State} (h : TreeOk s) (hc : t.coding = s.coding) : TreeOk t := fun hv =>
  have htree : t.treeValid = s.treeValid := congrArg Coding.treeValid hc
  tree_congr (h (htree ▸ hv)) (congrArg Coding.nodes hc) (congrArg Coding.nsym hc) (congrArg Coding.root hc)
    (congrArg Coding.nnodes hc)

/-- BUILD leaves a tree, or leaves what it found (40 R155). -/
theorem buildBody_treeOk (s : State) (h : TreeOk s) : (buildBody s).Leaves TreeOk := by
  unfold buildBody
  dsimp only
  split
  · exact h
  next hne =>
  split
  · exact h
  intro _
  have h1 : 1 ≤ (presentSymbols s.freq).length := Nat.pos_of_ne_zero hne
  have hle := presentSymbols_length_le s.freq
  obtain ⟨r, hr⟩ := mergeAll_queue h1
  have hok := mergeAll_ok s.freq
  have hrlt : r < 511 := lt_of_valid ((hok.queued r).1 (by rw [hr]; exact List.mem_singleton.2 rfl)).1
  refine hok.tree hr rfl ?_ ?_ h1 ?_
  · rw [hr]
    exact Nat.mod_eq_of_lt (show r < 2 ^ 9 by omega)
  · exact Nat.mod_eq_of_lt (show _ < 2 ^ 9 by omega)
  · have hn : (BitVec.ofNat 9 (presentSymbols s.freq).length).toNat = (presentSymbols s.freq).length :=
      Nat.mod_eq_of_lt (show _ < 2 ^ 9 by omega)
    rw [hn]
    exact Nat.mod_eq_of_lt (show _ < 2 ^ 10 by omega)

theorem gencodeBody_treeOk (s : State) (h : TreeOk s) : (gencodeBody s).Leaves TreeOk :=
  State.checkTree_leaves h fun _ hv => tree_congr (h hv) rfl rfl rfl rfl

theorem parseTableBody_treeOk (s : State) (h : TreeOk s) : (parseTableBody s).Leaves TreeOk := by
  refine State.checkInLen_leaves h (State.checkRdPtr_leaves h ?_)
  split
  · exact h
  · unfold State.parseTableFrom
    split
    · exact h
    · intro hv; cases hv

theorem treeOk_invariant : CodingInvariant TreeOk where
  congr := treeOk_congr
  cleared htree _ hv := by rw [htree] at hv; cases hv
  build := buildBody_treeOk
  gencode := gencodeBody_treeOk
  parseTable := parseTableBody_treeOk

/-- Settles O58: only BUILD raises TREE_VALID, and its merge loop leaves a tree. -/
theorem stepKeepsTree : Obligations.StepKeepsTree := fun _ _ hs h => treeOk_invariant.of_step hs h

end Sys2Proof.Machine

/-! PROOFS. The code table set from a list of entries (40 R165, 42 R220) is a code table in the sense of 10 R65 when the
entries are those a container may hold. -/

namespace Sys2Proof.Machine

open Sys2Proof.Safety

/-! ### Setting codes one after another -/

theorem CodeTable.ofEntries_append_one (es : List (Byte × Bits)) (e : Byte × Bits) :
    CodeTable.ofEntries (es ++ [e]) = (CodeTable.ofEntries es).setCode es.length e.1 e.2 := by
  simp [CodeTable.ofEntries, List.zipIdx_append]

/-- CODE_LEN[b] of a table. -/
def CodeTable.lenOf (t : CodeTable) (b : Byte) : Byte := t.len[b.toNat]'b.isLt

/-- CODE_BITS[b] of a table. -/
def CodeTable.bitsOf (t : CodeTable) (b : Byte) : BitVec 256 := t.bits[b.toNat]'b.isLt

theorem CodeTable.setCode_lenOf (t : CodeTable) (i : Nat) (b : Byte) (c : Bits) (x : Byte) :
    (t.setCode i b c).lenOf x = if x = b then BitVec.ofNat 8 c.length else t.lenOf x := by
  have hiff : b.toNat = x.toNat ↔ x = b := by rw [BitVec.toNat_inj, eq_comm]
  simp only [CodeTable.lenOf, CodeTable.setCode, Vector.getElem_set, hiff]

theorem CodeTable.setCode_bitsOf (t : CodeTable) (i : Nat) (b : Byte) (c : Bits) (x : Byte) :
    (t.setCode i b c).bitsOf x = if x = b then codeWord c else t.bitsOf x := by
  have hiff : b.toNat = x.toNat ↔ x = b := by rw [BitVec.toNat_inj, eq_comm]
  simp only [CodeTable.bitsOf, CodeTable.setCode, Vector.getElem_set, hiff]

/-- A symbol of no entry has no code. -/
theorem CodeTable.ofEntries_of_not_mem (es : List (Byte × Bits)) {b : Byte} (h : b ∉ es.map Prod.fst) :
    (CodeTable.ofEntries es).lenOf b = 0 ∧ (CodeTable.ofEntries es).bitsOf b = 0 := by
  induction es using List.reverseRecOn with
  | nil => simp [CodeTable.ofEntries, CodeTable.empty, CodeTable.lenOf, CodeTable.bitsOf]
  | append_singleton es e ih =>
    rw [List.map_append, List.mem_append, not_or] at h
    have hne : b ≠ e.1 := fun hb => h.2 (List.mem_singleton.2 hb)
    rw [CodeTable.ofEntries_append_one, CodeTable.setCode_lenOf, CodeTable.setCode_bitsOf, if_neg hne, if_neg hne]
    exact ih h.1

/-- The symbol of an entry has its code, when no symbol has two. -/
theorem CodeTable.ofEntries_of_mem (es : List (Byte × Bits)) (hnd : (es.map Prod.fst).Nodup) {e : Byte × Bits}
    (h : e ∈ es) :
    (CodeTable.ofEntries es).lenOf e.1 = BitVec.ofNat 8 e.2.length ∧
      (CodeTable.ofEntries es).bitsOf e.1 = codeWord e.2 := by
  induction es using List.reverseRecOn with
  | nil => cases h
  | append_singleton es f ih =>
    rw [List.map_append, List.nodup_append] at hnd
    obtain ⟨hes, -, hdisj⟩ := hnd
    rw [CodeTable.ofEntries_append_one, CodeTable.setCode_lenOf, CodeTable.setCode_bitsOf]
    rcases List.mem_append.1 h with h | h
    · have hne : e.1 ≠ f.1 := hdisj _ (List.mem_map_of_mem h) _ (List.mem_singleton.2 rfl)
      rw [if_neg hne, if_neg hne]
      exact ih hes h
    · obtain rfl := List.mem_singleton.1 h
      rw [if_pos rfl, if_pos rfl]
      exact ⟨rfl, rfl⟩

/-- ORDER lists the symbols of the entries, then zeros (10 R64). -/
theorem CodeTable.ofEntries_order (es : List (Byte × Bits)) {i : Nat} (hi : i < 256) :
    (CodeTable.ofEntries es).order[i] = ((es.map Prod.fst)[i]?).getD 0 := by
  induction es using List.reverseRecOn with
  | nil => simp [CodeTable.ofEntries, CodeTable.empty]
  | append_singleton es e ih =>
    rw [CodeTable.ofEntries_append_one]
    simp only [CodeTable.setCode, Vector.getElem_setIfInBounds hi, ih, List.map_append, List.map_cons, List.map_nil]
    rcases Nat.lt_trichotomy i es.length with h | h | h
    · rw [if_neg (by omega), List.getElem?_append_left (by simpa using h)]
    · subst h; simp
    · rw [if_neg (by omega), List.getElem?_eq_none (by simp; omega), List.getElem?_eq_none (by simp; omega)]

/-! ### The longest code -/

theorem foldr_max_spec (l : List Nat) : (∀ x ∈ l, x ≤ l.foldr max 0) ∧ (l ≠ [] → l.foldr max 0 ∈ l) := by
  induction l with
  | nil => simp
  | cons a l ih =>
    obtain ⟨hle, hmem⟩ := ih
    rw [List.foldr_cons]
    refine ⟨fun x hx => ?_, fun _ => ?_⟩
    · rcases List.mem_cons.1 hx with rfl | hx
      · exact Nat.le_max_left _ _
      · exact (hle x hx).trans (Nat.le_max_right _ _)
    · rcases Nat.le_total a (l.foldr max 0) with h | h
      · by_cases hl : l = []
        · subst hl; simp
        · rw [Nat.max_eq_right h]; exact List.mem_cons_of_mem _ (hmem hl)
      · rw [Nat.max_eq_left h]; exact List.mem_cons_self

/-- MAXLEN is the largest CODE_LEN (10 R52). -/
def Longest (s : State) : Prop := (∀ b, s.codeLenOf b ≤ s.maxLen) ∧ ∃ b, s.codeLenOf b = s.maxLen

theorem longest_of_toNat {s : State} (h : ∀ b, (s.codeLenOf b).toNat ≤ s.maxLen.toNat) {b : Byte}
    (hb : (s.codeLenOf b).toNat = s.maxLen.toNat) : Longest s :=
  ⟨h, b, BitVec.eq_of_toNat_eq hb⟩

/-- `max_s CODE_LEN[s]` is the largest CODE_LEN (40 R165). -/
theorem longest_maxCodeLen {s : State} (h : s.maxLen = maxCodeLen s.codeLen) : Longest s := by
  obtain ⟨hle, hmem⟩ := foldr_max_spec (s.codeLen.toList.map BitVec.toNat)
  have hne : s.codeLen.toList.map BitVec.toNat ≠ [] := List.ne_nil_of_length_pos (by simp)
  obtain ⟨l, hl, hmax⟩ := List.mem_map.1 (hmem hne)
  obtain ⟨i, hi, hget⟩ := List.mem_iff_getElem.1 hl
  have hi' : i < 256 := by simpa using hi
  have hM : s.maxLen.toNat = (s.codeLen.toList.map BitVec.toNat).foldr max 0 := by
    rw [h, maxCodeLen, BitVec.toNat_ofNat, ← hmax]
    exact Nat.mod_eq_of_lt l.isLt
  have hb : (s.codeLenOf (BitVec.ofNat 8 i)) = l := by
    simp only [State.codeLenOf, BitVec.toNat_ofNat, Nat.mod_eq_of_lt (show i < 2 ^ 8 from hi'), ← hget,
      Vector.getElem_toList]
  have hall (b : Byte) : (s.codeLenOf b).toNat ≤ s.maxLen.toNat := by
    rw [hM]
    refine hle _ (List.mem_map_of_mem ?_)
    simp [State.codeLenOf]
  exact longest_of_toNat hall (show _ = _ by rw [hb, hM, hmax])

/-! ### The table of well-formed entries -/

section
variable {s : State} {es : List (Byte × Bits)} (htable : s.setTable (CodeTable.ofEntries es) = s)
include htable

theorem codeLenOf_eq_lenOf (b : Byte) : s.codeLenOf b = (CodeTable.ofEntries es).lenOf b :=
  congrArg (fun u : State => u.codeLenOf b) htable.symm

theorem codeBitsOf_eq_bitsOf (b : Byte) : s.codeBitsOf b = (CodeTable.ofEntries es).bitsOf b :=
  congrArg (fun u : State => u.codeBitsOf b) htable.symm

theorem orderAt_eq {i : Nat} (hi : i < 256) : s.orderAt i = ((es.map Prod.fst)[i]?).getD 0 := by
  have h : s.order = (CodeTable.ofEntries es).order := congrArg State.order htable.symm
  rw [← CodeTable.ofEntries_order es hi, State.orderAt, h]
  simp [Vector.getD, hi]

variable (hes : Entries es)
include hes

theorem codeLenOf_entry {e : Byte × Bits} (he : e ∈ es) : (s.codeLenOf e.1).toNat = e.2.length := by
  rw [codeLenOf_eq_lenOf htable, (CodeTable.ofEntries_of_mem es hes.once he).1]
  exact Nat.mod_eq_of_lt (Nat.lt_succ_of_le (hes.lengths e he).2)

theorem codeBitsOf_entry {e : Byte × Bits} (he : e ∈ es) (k : Nat) :
    (s.codeBitsOf e.1).getMsbD k = e.2.getD k false := by
  rw [codeBitsOf_eq_bitsOf htable, (CodeTable.ofEntries_of_mem es hes.once he).2]
  exact codeWord_getMsbD e.2 (Nat.le_succ_of_le (hes.lengths e he).2) k

/-- The code table gives each entry's symbol the entry's code. -/
theorem code_entry {e : Byte × Bits} (he : e ∈ es) : s.code e.1 = e.2 := by
  have hlen : (s.code e.1).length = e.2.length := by rw [s.code_length, codeLenOf_entry htable hes he]
  refine List.ext_getElem hlen fun k h1 h2 => ?_
  simp [State.code, codeBitsOf_entry htable hes he, List.getD_eq_getElem?_getD, h2]

theorem codeLenOf_ne_zero_iff (b : Byte) : s.codeLenOf b ≠ 0 ↔ b ∈ es.map Prod.fst := by
  by_cases hb : b ∈ es.map Prod.fst
  · obtain ⟨e, he, rfl⟩ := List.mem_map.1 hb
    refine iff_of_true (fun h0 => ?_) hb
    have hlen := codeLenOf_entry htable hes he
    have hpos := (hes.lengths e he).1
    rw [h0] at hlen
    simp at hlen; omega
  · refine iff_of_false (not_not.2 ?_) hb
    rw [codeLenOf_eq_lenOf htable, (CodeTable.ofEntries_of_not_mem es hb).1]

variable (hnsym : s.nsym.toNat = es.length)

include hnsym in
theorem orderedSymbols_eq : s.orderedSymbols = es.map Prod.fst := by
  refine List.ext_getElem (by simp [State.orderedSymbols, hnsym]) fun i h1 h2 => ?_
  have hi : i < es.length := by simpa using h2
  have h256 : i < 256 := Nat.lt_of_lt_of_le hi hes.count.2
  simp [State.orderedSymbols, orderAt_eq htable h256, hi]

/-- MAXLEN as PARSE_TABLE sets it is the largest CODE_LEN (42 R222). -/
theorem longest_entries (h : s.maxLen = BitVec.ofNat 8 ((es.map fun e => e.2.length).foldr max 0)) : Longest s := by
  obtain ⟨hle, hmem⟩ := foldr_max_spec (es.map fun e => e.2.length)
  have hne : es.map (fun e => e.2.length) ≠ [] := List.ne_nil_of_length_pos (by rw [List.length_map]; exact hes.count.1)
  obtain ⟨e, he, hmax⟩ := List.mem_map.1 (hmem hne)
  have hM : s.maxLen.toNat = (es.map fun e => e.2.length).foldr max 0 := by
    rw [h, BitVec.toNat_ofNat, ← hmax]
    exact Nat.mod_eq_of_lt (Nat.lt_succ_of_le (hes.lengths e he).2)
  have hall (b : Byte) : (s.codeLenOf b).toNat ≤ s.maxLen.toNat := by
    by_cases hb : b ∈ es.map Prod.fst
    · obtain ⟨f, hf, rfl⟩ := List.mem_map.1 hb
      rw [codeLenOf_entry htable hes hf, hM]
      exact hle _ (List.mem_map_of_mem hf)
    · rw [not_not.1 (mt (codeLenOf_ne_zero_iff htable hes b).1 hb)]
      exact Nat.zero_le _
  exact longest_of_toNat hall ((codeLenOf_entry htable hes he).trans (hmax.trans hM.symm))

include hnsym in
/-- The table of well-formed entries is a code table (10 R63–R65). -/
theorem table_of_entries (hlong : Longest s) : Table s where
  count := hnsym ▸ hes.count
  once := by rw [orderedSymbols_eq htable hes hnsym]; exact hes.once
  coded b := by rw [orderedSymbols_eq htable hes hnsym]; exact codeLenOf_ne_zero_iff htable hes b
  orderPad i h1 h2 := by
    rw [orderAt_eq htable h2, List.getElem?_eq_none (by rw [List.length_map, ← hnsym]; exact h1)]
    rfl
  bitsPad b k hk := by
    by_cases hb : b ∈ es.map Prod.fst
    · obtain ⟨e, he, rfl⟩ := List.mem_map.1 hb
      rw [codeLenOf_entry htable hes he] at hk
      rw [codeBitsOf_entry htable hes he, List.getD_eq_getElem?_getD, List.getElem?_eq_none hk]
      rfl
    · rw [codeBitsOf_eq_bitsOf htable, (CodeTable.ofEntries_of_not_mem es hb).2]
      simp
  longest := hlong
  prefixFree b c hbc hb hc := by
    obtain ⟨e, he, rfl⟩ := List.mem_map.1 ((codeLenOf_ne_zero_iff htable hes b).1 hb)
    obtain ⟨f, hf, rfl⟩ := List.mem_map.1 ((codeLenOf_ne_zero_iff htable hes c).1 hc)
    rw [code_entry htable hes he, code_entry htable hes hf]
    have hne : e ≠ f := fun h => hbc (congrArg Prod.fst h)
    have : Std.Symm fun e f : Byte × Bits => ¬ e.2 <+: f.2 ∧ ¬ f.2 <+: e.2 := ⟨fun _ _ h => h.symm⟩
    exact (hes.prefixFree.forall he hf hne).1

end

/-! ### PARSE_TABLE -/

/-- The entries staged so far: well formed but for their number (42 R220–R224). -/
structure Staged (es : List (Byte × Bits)) : Prop where
  lengths : ∀ e ∈ es, 1 ≤ e.2.length ∧ e.2.length ≤ 255
  once : (es.map Prod.fst).Nodup
  prefixFree : es.Pairwise fun e f => ¬ e.2 <+: f.2 ∧ ¬ f.2 <+: e.2

theorem Staged.nil : Staged [] := ⟨fun _ h => absurd h List.not_mem_nil, List.nodup_nil, List.Pairwise.nil⟩

theorem Staged.append_one {es : List (Byte × Bits)} (h : Staged es) {b : Byte} {c : Bits}
    (hlen : 1 ≤ c.length ∧ c.length ≤ 255) (hdup : es.any (fun e => e.1 == b) = false)
    (hclash : es.any (fun e => prefixClash e.2 c) = false) : Staged (es ++ [(b, c)]) where
  lengths e he := by
    rcases List.mem_append.1 he with he | he
    · exact h.lengths e he
    · obtain rfl := List.mem_singleton.1 he
      exact hlen
  once := by
    rw [List.map_append, List.nodup_append]
    refine ⟨h.once, List.nodup_singleton b, fun x hx y hy hxy => ?_⟩
    obtain ⟨e, he, rfl⟩ := List.mem_map.1 hx
    obtain rfl := List.mem_singleton.1 hy
    have := List.any_eq_false.1 hdup e he
    exact this (beq_iff_eq.2 hxy)
  prefixFree := by
    refine List.pairwise_append.2 ⟨h.prefixFree, List.pairwise_singleton _ _, fun e he f hf => ?_⟩
    obtain rfl := List.mem_singleton.1 hf
    have := List.any_eq_false.1 hclash e he
    simpa [prefixClash] using this

/-- What the staging loop accepts is well formed, one entry for each round. -/
theorem State.stageEntries_staged (s : State) (k q : Nat) (staged : List (Byte × Bits)) (h : Staged staged)
    {es : List (Byte × Bits)} {q' : Nat} (hok : s.stageEntries k q staged = .ok (es, q')) :
    Staged es ∧ es.length = staged.length + k := by
  induction k generalizing q staged with
  | zero =>
    cases hok
    exact ⟨h, rfl⟩
  | succ k ih =>
    unfold State.stageEntries at hok
    dsimp only at hok
    split at hok
    · cases hok
    split at hok
    · cases hok
    split at hok
    · cases hok
    split at hok
    · cases hok
    split at hok
    · cases hok
    next hn hroom hdup hclash =>
    have hlen : (s.entryCode q (s.inByte (q + 1)).toNat).length = (s.inByte (q + 1)).toNat := by
      have hle : (s.inByte (q + 1)).toNat ≤ 8 * ceil8 (s.inByte (q + 1)).toNat := by unfold ceil8; omega
      simp [State.entryCode, hle]
    have hbyte := (s.inByte (q + 1)).isLt
    obtain ⟨h1, h2⟩ := ih _ _ (h.append_one (by omega) (Bool.eq_false_iff.2 hdup) (Bool.eq_false_iff.2 hclash)) hok
    refine ⟨h1, ?_⟩
    rw [h2, List.length_append, List.length_singleton]
    omega

/-- PARSE_TABLE leaves what it found, or the table of the entries it staged (42 R220, R222). -/
theorem parseTableBody_tableOk (s : State) (h : TableOk s) : (parseTableBody s).Leaves TableOk := by
  refine State.checkInLen_leaves h (State.checkRdPtr_leaves h ?_)
  split
  · exact h
  · unfold State.parseTableFrom
    split
    · exact h
    next es q hok =>
    intro _
    obtain ⟨hst, hlen⟩ := s.stageEntries_staged _ _ [] .nil hok
    have hbyte := (s.inByte s.rdPtr.toNat).isLt
    rw [List.length_nil] at hlen
    have hes : Entries es := ⟨by omega, hst.lengths, hst.once, hst.prefixFree⟩
    refine table_of_entries rfl hes ?_ (longest_entries rfl hes rfl)
    rw [hlen, Nat.zero_add]
    exact Nat.mod_eq_of_lt (show _ < 2 ^ 9 by omega)

end Sys2Proof.Machine

/-! PROOFS. GENCODE's walk of a tree visits each leaf once, by its one path from ROOT, so it gives the entries of a code
table (40 R165–R168). -/

namespace Sys2Proof.Machine

open Sys2Proof.Safety

/-- LEFT for the bit 0, RIGHT for the bit 1 (40 R167). -/
def childAt (s : State) (n : Nat) (b : Bool) : Nat :=
  if b then (nodeAt s.nodes n).right.toNat else (nodeAt s.nodes n).left.toNat

theorem childAt_child (s : State) (n : Nat) (b : Bool) : Child s n (childAt s n b) := by
  cases b
  · exact .inl rfl
  · exact .inr rfl

theorem exists_childAt {s : State} {n c : Nat} (h : Child s n c) : ∃ b, childAt s n b = c := by
  rcases h with h | h
  · exact ⟨false, h⟩
  · exact ⟨true, h⟩

/-- The bits lead from `n` through internal nodes to `m`, built at the end of the path. -/
inductive Descends (s : State) (n : Nat) : Bits → Nat → Prop
  | here : Descends s n [] n
  | step {p : Bits} {m : Nat} (h : Descends s n p m) (hi : Internal s m) (b : Bool) :
      Descends s n (p ++ [b]) (childAt s m b)

/-- A path, taken apart at its start. -/
theorem Descends.head {s : State} {n m : Nat} {p : Bits} (h : Descends s n p m) :
    (p = [] ∧ m = n) ∨ ∃ b q, p = b :: q ∧ Internal s n ∧ Descends s (childAt s n b) q m := by
  induction h with
  | here => exact .inl ⟨rfl, rfl⟩
  | step _ hi b ih =>
    rcases ih with ⟨rfl, rfl⟩ | ⟨b0, q, rfl, hn, hq⟩
    · exact .inr ⟨b, [], rfl, hi, .here⟩
    · exact .inr ⟨b0, q ++ [b], rfl, hn, hq.step hi b⟩

/-- A path built at its start. -/
theorem Descends.cons {s : State} {n m : Nat} {q : Bits} (hn : Internal s n) (b : Bool)
    (h : Descends s (childAt s n b) q m) : Descends s n (b :: q) m := by
  induction h with
  | here => exact (show Descends s n [] n from .here).step hn b
  | step _ hi b' ih => exact ih.step hi b'

section
variable {s : State} (ht : Tree s)
include ht

theorem tree_leaf {n : Nat} (hv : (nodeAt s.nodes n).valid = true) (hn : n < 256) :
    (nodeAt s.nodes n).leaf = true ∧ (nodeAt s.nodes n).sym = BitVec.ofNat 8 n := by
  rcases ht.leaf n hn with h | h
  · rw [h] at hv; cases hv
  · rw [h]; exact ⟨rfl, rfl⟩

theorem tree_childAt_lt {n : Nat} (hi : Internal s n) (b : Bool) :
    (nodeAt s.nodes (childAt s n b)).valid = true ∧ childAt s n b < n :=
  ht.older n _ hi (childAt_child s n b)

/-- A node is reached from at most one parent, by at most one of its two bits. -/
theorem tree_childAt_inj {n n' : Nat} {b b' : Bool} (hi : Internal s n) (hi' : Internal s n')
    (h : childAt s n b = childAt s n' b') : n = n' ∧ b = b' := by
  have hroot : childAt s n b ≠ s.root.toNat := fun hr => ht.top.2 n hi (hr ▸ childAt_child s n b)
  have hn : n = n' := (ht.owned _ (tree_childAt_lt ht hi b).1 hroot).unique ⟨hi, childAt_child s n b⟩
    ⟨hi', h ▸ childAt_child s n' b'⟩
  subst hn
  have hdist := ht.distinct n hi
  refine ⟨rfl, ?_⟩
  cases b <;> cases b'
  · rfl
  · exact absurd (BitVec.eq_of_toNat_eq h) hdist
  · exact absurd (BitVec.eq_of_toNat_eq h.symm) hdist
  · rfl

/-- Each bit of a path leads to a smaller index. -/
theorem Descends.length_le {n m : Nat} {p : Bits} (h : Descends s n p m) : p.length + m ≤ n := by
  induction h with
  | here => simp
  | step _ hi b ih =>
    have := (tree_childAt_lt ht hi b).2
    rw [List.length_append, List.length_singleton]
    omega

/-- A node has one path from `n` at most. -/
theorem Descends.unique {n m : Nat} {p q : Bits} (h : Descends s n p m) (h' : Descends s n q m) : p = q := by
  induction h generalizing q with
  | here =>
    have := h'.length_le ht
    exact (List.eq_nil_of_length_eq_zero (by omega)).symm
  | @step p m h hi b ih =>
    generalize hc : childAt s m b = c at h'
    cases h' with
    | here =>
      have := h.length_le ht
      have := (tree_childAt_lt ht hi b).2
      omega
    | step h'' hi' b' =>
      obtain ⟨rfl, rfl⟩ := tree_childAt_inj ht hi hi' hc
      rw [ih h'']

/-- Every valid node is reached from ROOT. -/
theorem tree_reaches {c : Nat} (hv : (nodeAt s.nodes c).valid = true) : ∃ p, Descends s s.root.toNat p c := by
  induction hk : 511 - c using Nat.strong_induction_on generalizing c with
  | _ k ih =>
    by_cases hc : c = s.root.toNat
    · exact ⟨[], hc ▸ .here⟩
    · obtain ⟨n, ⟨hi, hchild⟩, -⟩ := ht.owned c hv hc
      have hlt := (ht.older n c hi hchild).2
      have hn := lt_of_valid hi.2
      obtain ⟨p, hp⟩ := ih (511 - n) (by omega) hi.2 rfl
      obtain ⟨b, rfl⟩ := exists_childAt hchild
      exact ⟨p ++ [b], hp.step hi b⟩

/-- The walk below `n` finds each leaf with its path from `n`. -/
theorem mem_walk {fuel n : Nat} {c : Bits} (hv : (nodeAt s.nodes n).valid = true) (hf : n < fuel) (e : Byte × Bits) :
    e ∈ walk s.nodes fuel n c ↔ ∃ p, e.2 = c ++ p ∧ Descends s n p e.1.toNat := by
  induction fuel generalizing n c with
  | zero => exact absurd hf (Nat.not_lt_zero n)
  | succ fuel ih =>
    rw [walk]
    by_cases hn : n < 256
    · obtain ⟨hleaf, hsym⟩ := tree_leaf ht hv hn
      rw [if_pos hleaf, List.mem_singleton, hsym]
      have hnot : ¬ Internal s n := fun hi => Nat.not_lt.2 hi.1 hn
      constructor
      · rintro rfl
        refine ⟨[], (List.append_nil c).symm, ?_⟩
        rw [show (BitVec.ofNat 8 n).toNat = n from Nat.mod_eq_of_lt hn]
        exact .here
      · rintro ⟨p, hp, hd⟩
        rcases hd.head with ⟨rfl, hm⟩ | ⟨_, _, -, hi, -⟩
        · refine Prod.ext ?_ (by rw [hp, List.append_nil])
          rw [← hm, BitVec.ofNat_toNat, BitVec.setWidth_eq]
        · exact absurd hi hnot
    · have hi : Internal s n := ⟨Nat.not_lt.1 hn, hv⟩
      have hleaf := (ht.inner n hi).1
      have below (b : Bool) := tree_childAt_lt ht hi b
      have walkBelow (b : Bool) : e ∈ walk s.nodes fuel (childAt s n b) (c ++ [b]) ↔
          ∃ p, e.2 = c ++ b :: p ∧ Descends s (childAt s n b) p e.1.toNat := by
        have hlt := (below b).2
        rw [ih (below b).1 (by omega)]
        simp
      rw [if_neg (by rw [hleaf]; exact Bool.false_ne_true), List.mem_append]
      refine (or_congr (walkBelow false) (walkBelow true)).trans ?_
      constructor
      · rintro (⟨p, hp, hd⟩ | ⟨p, hp, hd⟩)
        · exact ⟨false :: p, hp, hd.cons hi false⟩
        · exact ⟨true :: p, hp, hd.cons hi true⟩
      · rintro ⟨p, hp, hd⟩
        rcases hd.head with ⟨-, hm⟩ | ⟨b, q, rfl, -, hq⟩
        · exact absurd (hm ▸ e.1.isLt) hn
        · cases b
          · exact .inl ⟨q, hp, hq⟩
          · exact .inr ⟨q, hp, hq⟩

end

/-! ### No code of a walk begins another -/

theorem walk_prefix {nodes : Vector Node 511} {fuel n : Nat} {c : Bits} {e : Byte × Bits}
    (h : e ∈ walk nodes fuel n c) : c <+: e.2 := by
  induction fuel generalizing n c with
  | zero => cases h
  | succ fuel ih =>
    rw [walk] at h
    split at h
    · rw [List.mem_singleton.1 h]
    · rcases List.mem_append.1 h with h | h
      · exact (List.prefix_append c _).trans (ih h)
      · exact (List.prefix_append c _).trans (ih h)

theorem walk_prefixFree (nodes : Vector Node 511) (fuel n : Nat) (c : Bits) :
    (walk nodes fuel n c).Pairwise fun e f => ¬ e.2 <+: f.2 ∧ ¬ f.2 <+: e.2 := by
  induction fuel generalizing n c with
  | zero => exact .nil
  | succ fuel ih =>
    rw [walk]
    split
    · exact List.pairwise_singleton _ _
    · refine List.pairwise_append.2 ⟨ih _ _, ih _ _, fun e he f hf => ?_⟩
      obtain ⟨p, hp⟩ := walk_prefix he
      obtain ⟨q, hq⟩ := walk_prefix hf
      rw [← hp, ← hq]
      constructor <;> intro h <;> simp [List.append_assoc, List.prefix_append_right_inj] at h

/-! ### GENCODE -/

section
variable {s : State} (ht : Tree s)
include ht

theorem top_lt : s.root.toNat < 511 := lt_of_valid ht.top.1

theorem mem_walk_top (e : Byte × Bits) :
    e ∈ walk s.nodes 511 s.root.toNat [] ↔ Descends s s.root.toNat e.2 e.1.toNat := by
  rw [mem_walk ht ht.top.1 (top_lt ht)]
  simp

/-- The walk from ROOT gives no symbol twice. -/
theorem walk_top_once : ((walk s.nodes 511 s.root.toNat []).map Prod.fst).Nodup := by
  refine List.pairwise_map.2 ((walk_prefixFree _ _ _ _).imp_of_mem fun {e f} he hf hinc heq => ?_)
  have hp := (mem_walk_top ht e).1 he
  have hq := (mem_walk_top ht f).1 hf
  rw [heq] at hp
  exact hinc.1 (by rw [hp.unique ht hq])

theorem Descends.valid {p : Bits} {m : Nat} (h : Descends s s.root.toNat p m) : (nodeAt s.nodes m).valid = true := by
  cases h with
  | here => exact ht.top.1
  | step _ hi b => exact (tree_childAt_lt ht hi b).1

/-- The walk from ROOT visits exactly the leaves. -/
theorem walk_top_length : (walk s.nodes 511 s.root.toNat []).length = s.nsym.toNat := by
  have hnodup : ((walk s.nodes 511 s.root.toNat []).map fun e => e.1.toNat).Nodup := by
    have h := (walk_top_once ht).map (show Function.Injective BitVec.toNat from fun _ _ => BitVec.eq_of_toNat_eq)
    rwa [List.map_map] at h
  have hmem (n : Nat) : n ∈ ((walk s.nodes 511 s.root.toNat []).map fun e => e.1.toNat) ↔
      n ∈ (List.range 256).filter fun n => (nodeAt s.nodes n).valid := by
    rw [List.mem_filter, List.mem_range, List.mem_map]
    constructor
    · rintro ⟨e, he, rfl⟩
      exact ⟨e.1.isLt, ((mem_walk_top ht e).1 he).valid ht⟩
    · rintro ⟨hn, hv⟩
      obtain ⟨p, hp⟩ := tree_reaches ht hv
      have hval : (BitVec.ofNat 8 n).toNat = n := Nat.mod_eq_of_lt hn
      exact ⟨(BitVec.ofNat 8 n, p), (mem_walk_top ht _).2 (hval.symm ▸ hp), hval⟩
  have h := ((List.perm_ext_iff_of_nodup hnodup (List.nodup_range.filter _)).2 hmem).length_eq
  rwa [List.length_map, ht.leaves] at h

/-- A code is at most 255 bits long: above its leaf there are internal nodes only (40 R162). -/
theorem Descends.length_le_255 {p : Bits} {m : Nat} (h : Descends s s.root.toNat p m) : p.length ≤ 255 := by
  cases h with
  | here => exact Nat.zero_le _
  | step h hi b =>
    have := h.length_le ht
    have := top_lt ht
    have := hi.1
    rw [List.length_append, List.length_singleton]
    omega

/-- The codes of a tree are the entries of a code table, one for each leaf (40 R165, R166). -/
theorem treeCodes_entries :
    Entries (treeCodes s.nodes s.root.toNat) ∧ (treeCodes s.nodes s.root.toNat).length = s.nsym.toNat := by
  unfold treeCodes
  have hcount := ht.count
  by_cases hroot : s.root.toNat < 256
  · have hone : s.nsym.toNat = 1 := by
      by_contra hne
      have := ht.rootIndex (by omega)
      omega
    rw [if_pos (tree_leaf ht ht.top.1 hroot).1, hone]
    refine ⟨⟨by simp, fun e he => ?_, List.nodup_singleton _, List.pairwise_singleton _ _⟩, rfl⟩
    rw [List.mem_singleton.1 he]
    simp
  · have hleaf := (ht.inner s.root.toNat ⟨Nat.not_lt.1 hroot, ht.top.1⟩).1
    have hlength := walk_top_length ht
    rw [if_neg (by rw [hleaf]; exact Bool.false_ne_true)]
    refine ⟨⟨hlength ▸ hcount, fun e he => ?_, walk_top_once ht, walk_prefixFree _ _ _ _⟩, hlength⟩
    have hd := (mem_walk_top ht e).1 he
    refine ⟨List.length_pos_iff.2 fun hnil => ?_, hd.length_le_255 ht⟩
    rw [hnil] at hd
    rcases hd.head with ⟨-, hm⟩ | ⟨_, _, hq, -, -⟩
    · exact hroot (hm ▸ e.1.isLt)
    · cases hq

end

theorem gencodeBody_tableOk (s : State) (htree : TreeOk s) (h : TableOk s) : (gencodeBody s).Leaves TableOk :=
  State.checkTree_leaves h fun hv _ =>
    have ⟨hes, hlength⟩ := treeCodes_entries (htree hv)
    table_of_entries rfl hes hlength.symm (longest_maxCodeLen rfl)

theorem buildBody_tableOk (s : State) (h : TableOk s) : (buildBody s).Leaves TableOk := by
  unfold buildBody
  dsimp only
  split
  · exact h
  split
  · exact h
  · intro hv; cases hv

theorem tableOk_congr {s t : State} (h : TableOk s) (hc : t.coding = s.coding) : TableOk t := by
  cases s; cases t
  simp only [State.coding, Coding.mk.injEq] at hc
  obtain ⟨-, rfl, rfl, -, -, -, rfl, rfl, rfl, rfl⟩ := hc
  exact fun hv => have ht := h hv
    ⟨ht.count, ht.once, ht.coded, ht.orderPad, ht.bitsPad, ht.longest, ht.prefixFree⟩

theorem Ran.Leaves.and {P Q : State → Prop} {r : Ran} (hp : r.Leaves P) (hq : r.Leaves Q) :
    r.Leaves fun t => P t ∧ Q t := by
  cases r with
  | ok t => exact ⟨hp, hq⟩
  | raised e i t => exact ⟨hp, hq⟩

theorem treeOk_tableOk_invariant : CodingInvariant fun s => TreeOk s ∧ TableOk s where
  congr h hc := ⟨treeOk_congr h.1 hc, tableOk_congr h.2 hc⟩
  cleared htree htable := ⟨treeOk_invariant.cleared htree htable, fun hv => by rw [htable] at hv; cases hv⟩
  build s h := (buildBody_treeOk s h.1).and (buildBody_tableOk s h.2)
  gencode s h := (gencodeBody_treeOk s h.1).and (gencodeBody_tableOk s h.1 h.2)
  parseTable s h := (parseTableBody_treeOk s h.1).and (parseTableBody_tableOk s h.2)

/-- Settles O59: GENCODE of a tree and PARSE_TABLE leave the table of well-formed entries, and no other command raises
TABLE_VALID. -/
theorem stepKeepsTable : Obligations.StepKeepsTable := fun _ _ htree htable h =>
  (treeOk_tableOk_invariant.of_step ⟨htree, htable⟩ h).2

end Sys2Proof.Machine

/-! PROOFS. The host's accesses to the window's memory (20 R84, R85, R89–R91), and where in OUT_BUF a command writes
(20 R87). -/

namespace Sys2Proof.Machine

open Sys2Proof.Safety

/-! ### Reads and bus errors -/

/-- An access inside the window is one step, which serves it. -/
theorem step_access {s : State} {rest : List Event} {a : Access} {off : Nat} (hs : s.agenda = .access a :: rest)
    (ha : a.addr = s.params.base + off) (hoff : off < windowSize) :
    step s = .next ({ s with agenda := rest }.serve a off) := by
  simp only [step, nextEvent, hs, hostAccess, ha, windowOffset_base _ _ hoff]

/-- Settles O13: a read is served by a bus error or by its data, and neither writes but at the port. -/
theorem readsChangeNothing : Obligations.ReadsChangeNothing := by
  intro s rest off n hoff hs
  refine ⟨_, step_access hs rfl hoff, ?_⟩
  rcases State.serve_cases { s with agenda := rest } (.read (s.params.base + off) n) off with
    ⟨-, h⟩ | ⟨-, m, -, h⟩ | ⟨-, m, v, hw, -⟩
  · rw [h]
  · rw [h]; rfl
  · cases hw

/-- A served access is naturally aligned (20 R90). -/
theorem accessOk_aligned {off : Nat} {n : Width} (hok : accessOk off n = true) : off % n.bytes = 0 := by
  simp only [accessOk, Bool.and_eq_true, beq_iff_eq] at hok
  exact hok.1

/-- Settles O14: a served access is aligned, and 4 bytes wide at the word windows. -/
theorem busErrorChangesNothing : Obligations.BusErrorChangesNothing := by
  intro s rest a off hoff ha hbad hs
  have hok : ¬ accessOk off a.width = true := fun hok => by
    rcases hbad with hbad | ⟨hn, hwin⟩
    · exact hbad (accessOk_aligned hok)
    · exact hn (accessOk_word hok (by omega))
  rw [step_access hs ha hoff]
  simp only [State.serve, if_neg hok]

/-! ### Which bytes a host write stores -/

/-- The bytes the host may write: EXT[0..254], and IN_BUF below IN_CAP (20 R84, R85). -/
theorem State.hostWritable_iff (s : State) (a : Nat) :
    s.hostWritable a = true ↔
      (0xA00 ≤ a ∧ a < 0xAFF) ∨ (0x1000000 ≤ a ∧ a < 0x2000000 ∧ a < 0x1000000 + s.params.inCap) := by
  by_cases hext : 0xA00 ≤ a ∧ a < 0xB00
  · have hw : s.hostWritable a = decide (a - extBase < 255) := by
      simp only [State.hostWritable, regionOf_ext hext.1 hext.2]
    rw [hw, decide_eq_true_eq, extBase]; omega
  by_cases hin : 0x1000000 ≤ a ∧ a < 0x2000000
  · have hw : s.hostWritable a = decide (a - inBase < s.params.inCap) := by
      simp only [State.hostWritable, regionOf_inBuf hin.1 hin.2]
    rw [hw, decide_eq_true_eq, inBase]; omega
  have hout : s.hostWritable a = false := by
    cases hr : regionOf a with
    | ext | inBuf => unfold regionOf at hr; grind
    | reg | freq | codeLen | order | node | codeBits | outBuf | reserved => simp only [State.hostWritable, hr]
  rw [hout]
  simp only [Bool.false_eq_true, false_iff]
  omega

theorem State.pokeByte_ramByte (s : State) (off : Nat) (b : Byte) (a : Nat) :
    (s.pokeByte off b).ramByte a = if a = off ∧ s.hostWritable off = true then b else s.ramByte a := by
  unfold State.pokeByte
  split
  · next hw => simp only [State.ramByte, Memory.read?_write, hw, and_true]; split <;> rfl
  · next hw => rw [if_neg fun h => hw h.2]

/-- No register stands at or past 0x048 (10 R33). -/
theorem regAt_reserved {off : Nat} (h : 0x048 ≤ off) : regAt off = none := by
  have hlt : ∀ r, regOffset r < 0x048 := by intro r; cases r <;> decide
  refine List.find?_eq_none.2 fun r _ => ?_
  have := hlt r
  simp only [beq_iff_eq]
  omega

section
variable (s : State) (off : Nat) (v : Word)

/-- A host write changes no parameter, so it leaves the writable bytes writable. -/
theorem State.pokeLanes_hostWritable (n a : Nat) : (s.pokeLanes off v n).hostWritable a = s.hostWritable a := by
  rw [s.pokeLanes_eq]; rfl

/-- What a host write of lanes does to every buffer byte. -/
theorem State.pokeLanes_ramByte (n a : Nat) :
    (s.pokeLanes off v n).ramByte a =
      if off ≤ a ∧ a < off + n ∧ s.hostWritable a = true then lane v (a - off) else s.ramByte a := by
  induction n with
  | zero => rw [if_neg (by omega)]; rfl
  | succ n ih =>
    rw [State.pokeLanes, State.pokeByte_ramByte, State.pokeLanes_hostWritable, ih]
    by_cases ha : a = off + n
    · subst ha
      simp
    · have hrange : a < off + (n + 1) ↔ a < off + n := by omega
      simp only [ha, false_and, if_false, hrange]

/-- A host write none of whose bytes is writable is ignored (20 R85). -/
theorem State.pokeLanes_ignored (n : Nat) (h : ∀ k, k < n → s.hostWritable (off + k) ≠ true) :
    s.pokeLanes off v n = s := by
  induction n with
  | zero => rfl
  | succ n ih =>
    rw [State.pokeLanes, ih fun k hk => h k (by omega), State.pokeByte, if_neg (h n (by omega))]

/-- A write to EXT or IN_BUF is a write of its lanes (20 R84, R89). -/
theorem State.writeIdle_buffer (n : Width)
    (h : (0xA00 ≤ off ∧ off < 0xB00) ∨ (0x1000000 ≤ off ∧ off < 0x2000000)) :
    s.writeIdle off n v = s.pokeLanes off v n.bytes := by
  rcases h with ⟨h1, h2⟩ | ⟨h1, h2⟩
  · simp only [State.writeIdle, regionOf_ext h1 h2]
  · simp only [State.writeIdle, regionOf_inBuf h1 h2]

/-- A write to a read-only window or a reserved region is ignored (20 R84, R85). -/
theorem State.writeIdle_readOnly (n : Width) (h : regionOf off ∉ [Region.reg, .freq, .ext, .inBuf]) :
    s.writeIdle off n v = s := by
  cases hr : regionOf off with
  | reg | freq | ext | inBuf => rw [hr] at h; exact absurd h (by decide)
  | codeLen | order | node | codeBits | outBuf | reserved => simp only [State.writeIdle, hr]

end

/-- Settles O15: no register, no writable window, or no writable byte stands at the offset. -/
theorem readOnlyWritesIgnored : Obligations.ReadOnlyWritesIgnored := by
  intro s rest off n v hidle hoff hok hro hs
  rw [step_write_idle hidle hs hoff hok]
  suffices h : State.writeIdle { s with agenda := rest } off n v = { s with agenda := rest } by rw [h]
  by_cases hreg : off < 0x400
  · have hr : regionOf off = .reg := by simp only [regionOf, hreg, if_true]
    simp only [State.writeIdle, hr, regAt_reserved (show 0x048 ≤ off by omega)]
  by_cases hin : 0x1000000 ≤ off ∧ off < 0x2000000
  · rw [State.writeIdle_buffer _ _ _ _ (.inr hin)]
    refine State.pokeLanes_ignored _ _ _ _ fun k hk => ?_
    rw [Ne, State.hostWritable_iff]
    dsimp only
    omega
  · refine State.writeIdle_readOnly _ _ _ _ ?_
    unfold regionOf
    grind

/-- Settles O16: the write is by lanes, and the bytes it may not store are the reserved ones. -/
theorem bufferWriteStoresLanes : Obligations.BufferWriteStoresLanes := by
  intro s rest off n v hidle hok hbuf hs
  refine ⟨_, step_write_idle hidle hs (by simp only [windowSize]; omega) hok, ?_⟩
  rw [State.writeIdle_buffer _ _ _ _ hbuf]
  have hbyte (a : Nat) := State.pokeLanes_ramByte { s with agenda := rest } off v n.bytes a
  have hblock (k : Nat) (hk : k < n.bytes) := accessOk_block hok hk
  refine ⟨?_, fun k hk hin => ?_, fun a ha => ?_⟩
  · rw [State.pokeLanes_eq]
  · have hw : State.hostWritable { s with agenda := rest } (off + k) = true := by
      rw [State.hostWritable_iff]
      have := hblock k hk
      dsimp only
      omega
    refine (hbyte (off + k)).trans ?_
    rw [if_pos ⟨Nat.le_add_right _ _, by omega, hw⟩, Nat.add_sub_cancel_left, lane]
  · refine (hbyte a).trans (if_neg ?_)
    rintro ⟨h1, h2, hw⟩
    have hres := ha (a - off) (by omega) (by omega)
    rw [State.hostWritable_iff] at hw
    dsimp only at hw
    omega

/-! ### Where a command writes OUT_BUF -/

/-- From `s` to `t` OUT_BUF was written from `lo` up to OUT_CAP at most. -/
structure WritesOutFrom (lo : Nat) (s t : State) : Prop where
  control : t.control = s.control
  kept : ∀ j, j < lo ∨ s.params.outCap ≤ j → t.outByte j = s.outByte j

namespace WritesOutFrom

section
variable {lo : Nat} {s t u : State}

/-- A state whose buffers hold the same bytes. -/
theorem of_mem (hc : t.control = s.control) (hm : t.mem = s.mem) : WritesOutFrom lo s t where
  control := hc
  kept j _ := by
    have he : t.epoch = s.epoch := congrArg Control.epoch hc
    simp only [State.outByte, State.ramByte, hm, he]

theorem refl (s : State) : WritesOutFrom lo s s := .of_mem rfl rfl

theorem trans (h : WritesOutFrom lo s t) (h' : WritesOutFrom lo t u) : WritesOutFrom lo s u where
  control := h'.control.trans h.control
  kept j hj := by
    have hp : t.params = s.params := congrArg Control.params h.control
    exact (h'.kept j (hp ▸ hj)).trans (h.kept j hj)

theorem mono {lo' : Nat} (hle : lo' ≤ lo) (h : WritesOutFrom lo s t) : WritesOutFrom lo' s t :=
  ⟨h.control, fun j hj => h.kept j (by omega)⟩

/-- A state whose memory has one more block, which has no byte below `lo` or past OUT_CAP. -/
theorem of_writeList {a : Nat} {vs : List Byte} (hc : t.control = s.control)
    (hm : t.mem = Memory.writeList s.mem a vs)
    (hout : ∀ j, j < lo ∨ s.params.outCap ≤ j → outBase + j < a ∨ a + vs.length ≤ outBase + j) :
    WritesOutFrom lo s t where
  control := hc
  kept j hj := by
    have he : t.epoch = s.epoch := congrArg Control.epoch hc
    have hstore : t.outByte j = (s.store a vs).outByte j := by
      simp only [State.outByte, State.ramByte, hm, he, State.store]
    rw [hstore, State.outByte, State.store_ramByte]
    split
    · rw [List.getElem?_eq_none (by have := hout j hj; omega)]; rfl
    · rfl

/-- A block stored from OUT_LEN up which is empty or ends within OUT_CAP. -/
theorem of_append {vs : List Byte} (hc : t.control = s.control)
    (hm : t.mem = Memory.writeList s.mem (outBase + s.outLen.toNat) vs)
    (hfit : vs.length = 0 ∨ s.outLen.toNat + vs.length ≤ s.params.outCap) :
    WritesOutFrom s.outLen.toNat s t :=
  .of_writeList hc hm fun j hj => by omega

end

end WritesOutFrom

theorem emitExtBody_writesOut (s : State) : (emitExtBody s).Leaves (WritesOutFrom s.outLen.toNat s) :=
  State.checkRoom_leaves (.refl s) fun h => .of_append rfl rfl (.inr (s.extBlock_length ▸ h))

theorem emitTableBody_writesOut (s : State) : (emitTableBody s).Leaves (WritesOutFrom s.outLen.toNat s) :=
  State.checkTable_leaves (.refl s) <|
    State.checkRoom_leaves (.refl s) fun h => .of_append rfl rfl (.inr (s.tableBlock_length ▸ h))

theorem packBody_writesOut (s : State) : (packBody s).Leaves (WritesOutFrom s.outLen.toNat s) := by
  refine State.checkInLen_leaves (.refl s) (State.checkTable_leaves (.refl s) ?_)
  dsimp only
  split
  · exact .refl s
  · refine State.checkRoom_leaves (.refl s) fun h => .of_append rfl rfl (.inr ?_)
    rw [List.length_cons, packMSB_length, State.payload_length, Nat.add_comm _ 1]
    exact h

/-- PARSE_EXT stores 255 bytes in EXT, below OUT_BUF (42 R217). -/
theorem parseExtBody_writesOut (s : State) : (parseExtBody s).Leaves (WritesOutFrom s.outLen.toNat s) := by
  refine State.checkInLen_leaves (.refl s) (State.checkRdPtr_leaves (.refl s) ?_)
  split
  · exact .refl s
  have hl := (s.inByte s.rdPtr.toNat).isLt
  unfold State.parseExtFrom
  split
  · exact .refl s
  · refine .of_writeList rfl rfl fun j _ => .inr ?_
    simp [extBase, outBase]
    omega

/-- The matching loop stores symbols only below OUT_CAP, from any write offset (41 R186). -/
theorem State.decodeBits_stores (s : State) (bits : Bits) (t o : Nat) (acc : Bits) :
    (s.decodeBits bits t o acc).syms.length = 0 ∨
      o + (s.decodeBits bits t o acc).syms.length ≤ s.params.outCap := by
  rcases Nat.le_total o s.params.outCap with h | h
  · exact .inr (s.decodeBits_fits bits t o acc h)
  · left
    induction bits generalizing t acc with
    | nil => rfl
    | cons b rest ih =>
      unfold State.decodeBits
      split
      · rw [if_pos h]; rfl
      · split
        · rfl
        · exact ih _ _

theorem unpackBody_writesOut (s : State) : (unpackBody s).Leaves (WritesOutFrom s.outLen.toNat s) := by
  refine State.checkInLen_leaves (.refl s) (State.checkRdPtr_leaves (.refl s) (State.checkTable_leaves (.refl s) ?_))
  split
  · exact .refl s
  unfold State.unpackFrom
  split
  · exact .refl s
  dsimp only
  split
  · exact .refl s
  have hfit := s.decodeBits_stores
  split
  · exact .of_append rfl rfl (hfit _ _ _ _)
  · exact .of_append rfl rfl (hfit _ _ _ _)

theorem countBody_writesOut (s : State) : (countBody s).Leaves (WritesOutFrom s.outLen.toNat s) :=
  State.checkInLen_leaves (.refl s) (.of_mem rfl rfl)

theorem buildBody_writesOut (s : State) : (buildBody s).Leaves (WritesOutFrom s.outLen.toNat s) := by
  unfold buildBody
  dsimp only
  split
  · exact .refl s
  split
  · exact .refl s
  · exact .of_mem rfl rfl

theorem gencodeBody_writesOut (s : State) : (gencodeBody s).Leaves (WritesOutFrom s.outLen.toNat s) :=
  State.checkTree_leaves (.refl s) fun _ => .of_mem rfl rfl

theorem parseTableBody_writesOut (s : State) : (parseTableBody s).Leaves (WritesOutFrom s.outLen.toNat s) := by
  refine State.checkInLen_leaves (.refl s) (State.checkRdPtr_leaves (.refl s) ?_)
  split
  · exact .refl s
  · unfold State.parseTableFrom
    split
    · exact .refl s
    · exact .of_mem rfl rfl

/-- A step of a whole-run command writes within OUT_CAP as the steps before it did. -/
theorem WritesOutFrom.next {s t : State} {r : Ran} (h : WritesOutFrom 0 s t)
    (hr : r.Leaves (WritesOutFrom t.outLen.toNat t)) : r.Leaves (WritesOutFrom 0 s) :=
  hr.mono fun _ hu => h.trans (hu.mono (Nat.zero_le _))

theorem compressSteps_writesOut (s : State) : (compressSteps s).Leaves (WritesOutFrom 0 s) := by
  have h0 : WritesOutFrom 0 s { s with outLen := 0, treeValid := false, tableValid := false } := .of_mem rfl rfl
  refine Ran.Leaves.andThen (h0.next (countBody_writesOut _)) fun s1 h1 => ?_
  refine Ran.Leaves.andThen (h1.next (emitExtBody_writesOut s1)) fun s2 h2 => ?_
  split
  · refine Ran.Leaves.andThen (h2.next (buildBody_writesOut s2)) fun s3 h3 => ?_
    refine Ran.Leaves.andThen (h3.next (gencodeBody_writesOut s3)) fun s4 h4 => ?_
    refine Ran.Leaves.andThen (h4.next (emitTableBody_writesOut s4)) fun s5 h5 => ?_
    exact h5.next (packBody_writesOut s5)
  · exact h2

theorem decompressSteps_writesOut (s : State) : (decompressSteps s).Leaves (WritesOutFrom 0 s) := by
  have h0 : WritesOutFrom 0 s { s with outLen := 0, rdPtr := 0, treeValid := false, tableValid := false } :=
    .of_mem rfl rfl
  refine Ran.Leaves.andThen (h0.next (parseExtBody_writesOut _)) fun s1 h1 => ?_
  split
  · refine Ran.Leaves.andThen (h1.next (parseTableBody_writesOut s1)) fun s2 h2 => ?_
    exact h2.next (unpackBody_writesOut s2)
  · exact h1.trans (.of_mem rfl rfl)

/-- A whole-run command writes OUT_BUF where its steps do. -/
theorem WritesOutFrom.wholeRun {s : State} {steps : State → Ran} (h : (steps s).Leaves (WritesOutFrom 0 s)) :
    (s.checkInLen steps).dropOutput.Leaves (WritesOutFrom 0 s) :=
  (State.checkInLen_leaves (.refl s) h).dropOutput fun _ ht => ht.trans (.of_mem rfl rfl)

/-- Where the body of every command writes OUT_BUF (20 R87). -/
theorem body_writesOut (i : Instr) (s : State) :
    (body i s).Leaves (WritesOutFrom (if i = .compress ∨ i = .decompress then 0 else s.outLen.toNat) s) := by
  cases i with
  | nop => exact .refl s
  | clear => exact .of_mem rfl rfl
  | count => exact countBody_writesOut s
  | build => exact buildBody_writesOut s
  | gencode => exact gencodeBody_writesOut s
  | emitExt => exact emitExtBody_writesOut s
  | emitTable => exact emitTableBody_writesOut s
  | pack => exact packBody_writesOut s
  | parseExt => exact parseExtBody_writesOut s
  | parseTable => exact parseTableBody_writesOut s
  | unpack => exact unpackBody_writesOut s
  | compress => exact WritesOutFrom.wholeRun (compressSteps_writesOut s)
  | decompress => exact WritesOutFrom.wholeRun (decompressSteps_writesOut s)

/-- The end of a command writes no buffer. -/
theorem Ran.complete_outByte {s : State} {lo : Nat} {r : Ran} (h : r.Leaves (WritesOutFrom lo s)) (j : Nat)
    (hj : j < lo ∨ s.params.outCap ≤ j) : r.complete.outByte j = s.outByte j := by
  cases r with
  | ok u => exact h.kept j hj
  | raised e i u => exact h.kept j hj

/-- Settles O54: the body of the command writes there only, and its start and end write no buffer. -/
theorem outputOnlyFromOutLen : Obligations.OutputOnlyFromOutLen := by
  intro i s t j h hj
  rw [exec_eq_body] at h
  cases h
  exact Ran.complete_outByte (body_writesOut i s.start) j hj

end Sys2Proof.Machine

/-! PROOFS. The tables and EXT, and the commands that write them (30 R114). -/

namespace Sys2Proof.Machine

open Sys2Proof.Safety

/-! ### What 30 R114 lists, and its writers -/

/-- What the commands write (30 R114): FREQ, the node store with ROOT and NNODES, the code table with MAXLEN, the
payload registers, EXT with EXT_LEN. -/
inductive Operand where
  | freq
  | tree
  | codes
  | payload
  | ext

namespace Operand

/-- The commands that write it (30 R114). -/
def writers : Operand → List Instr
  | freq => [.count, .clear, .compress]
  | tree => [.build, .clear, .compress]
  | codes => [.gencode, .parseTable, .clear, .compress, .decompress]
  | payload => [.pack, .unpack, .clear, .compress, .decompress]
  | ext => [.parseExt, .decompress]

/-- The type of its contents. -/
def Contents : Operand → Type
  | freq => Vector Word 256
  | tree => Vector Node 511 × BitVec 9 × BitVec 10
  | codes => Vector Byte 256 × Vector (BitVec 256) 256 × Vector Byte 256 × Byte
  | payload => BitVec 4 × Word × Word
  | ext => Byte × (Fin 255 → Byte)

/-- Its contents in a state. -/
def contents : (o : Operand) → State → o.Contents
  | freq, s => s.freq
  | tree, s => (s.nodes, s.root, s.nnodes)
  | codes, s => (s.codeLen, s.codeBits, s.order, s.maxLen)
  | payload, s => (s.sigBits, s.payBits, s.payOff)
  | ext, s => (s.extLen, fun j => s.extByte j)

/-- COMPRESS writes every operand but EXT. -/
theorem eq_ext_of_not_compress {o : Operand} (h : .compress ∉ o.writers) : o = ext := by
  cases o with
  | ext => rfl
  | freq | tree | codes | payload => exact absurd (by decide) h

/-- DECOMPRESS leaves FREQ and the node store alone. -/
theorem eq_freq_or_tree_of_not_decompress {o : Operand} (h : .decompress ∉ o.writers) : o = freq ∨ o = tree := by
  cases o with
  | freq => exact .inl rfl
  | tree => exact .inr rfl
  | codes | payload | ext => exact absurd (by decide) h

end Operand

/-- From `s` to `t` the operand's contents are kept. -/
def Keeps (o : Operand) (s t : State) : Prop := o.contents t = o.contents s

namespace Keeps

variable {o : Operand} {s t u : State}

theorem refl (s : State) : Keeps o s s := rfl

theorem trans (h : Keeps o s t) (h' : Keeps o t u) : Keeps o s u := Eq.trans h' h

/-- A step of a whole-run command keeps what the steps before it kept. -/
theorem next {r : Ran} (h : Keeps o s t) (hr : r.Leaves (Keeps o t)) : r.Leaves (Keeps o s) := hr.mono fun _ => h.trans

/-- The report, the phase, OUT_LEN, RD_PTR and the valid flags belong to none of these operands. -/
theorem registers (o : Operand) (s : State) (done error : Bool) (code sub : BitVec 4) (info outLen rdPtr : Word)
    (phase : Phase) (treeValid tableValid : Bool) :
    Keeps o s { s with
      done := done, error := error, errCode := code, errSub := sub, errInfo := info, outLen := outLen, rdPtr := rdPtr
      phase := phase, treeValid := treeValid, tableValid := tableValid } := by
  cases o <;> rfl

/-- A block stored in OUT_BUF lies past EXT. -/
theorem store_out (o : Operand) (s : State) (n : Nat) (vs : List Byte) : Keeps o s (s.store (outBase + n) vs) := by
  cases o with
  | ext =>
    refine Prod.ext rfl (funext fun j => ?_)
    have hj := j.isLt
    have hlow : ¬ outBase + n ≤ extBase + j := by simp only [outBase, extBase]; omega
    exact (State.store_ramByte ..).trans (if_neg hlow)
  | freq | tree | codes | payload => rfl

theorem emit (o : Operand) (s : State) (vs : List Byte) : Keeps o s (s.emit vs) :=
  (store_out o s s.outLen.toNat vs).trans (registers o (s.store (outBase + s.outLen.toNat) vs) ..)

end Keeps

/-! ### The primitives -/

section
variable {o : Operand} (s : State)

theorem countBody_keeps (ho : .count ∉ o.writers) : (countBody s).Leaves (Keeps o s) := by
  refine State.checkInLen_leaves (.refl s) ?_
  cases o with
  | freq => exact absurd (by decide) ho
  | tree | codes | payload | ext => rfl

theorem buildBody_keeps (ho : .build ∉ o.writers) : (buildBody s).Leaves (Keeps o s) := by
  unfold buildBody
  dsimp only
  split
  · exact .refl s
  split
  · exact .refl s
  cases o with
  | tree => exact absurd (by decide) ho
  | freq | codes | payload | ext => rfl

theorem gencodeBody_keeps (ho : .gencode ∉ o.writers) : (gencodeBody s).Leaves (Keeps o s) := by
  refine State.checkTree_leaves (.refl s) fun _ => ?_
  cases o with
  | codes => exact absurd (by decide) ho
  | freq | tree | payload | ext => rfl

theorem emitExtBody_keeps : (emitExtBody s).Leaves (Keeps o s) :=
  State.checkRoom_leaves (.refl s) fun _ => .emit o s _

theorem emitTableBody_keeps : (emitTableBody s).Leaves (Keeps o s) :=
  State.checkTable_leaves (.refl s) <| State.checkRoom_leaves (.refl s) fun _ => .emit o s _

theorem packBody_keeps (ho : .pack ∉ o.writers) : (packBody s).Leaves (Keeps o s) := by
  refine State.checkInLen_leaves (.refl s) (State.checkTable_leaves (.refl s) ?_)
  dsimp only
  split
  · exact .refl s
  refine State.checkRoom_leaves (.refl s) fun _ => ?_
  cases o with
  | payload => exact absurd (by decide) ho
  | ext => exact Keeps.emit .ext s _
  | freq | tree | codes => rfl

theorem parseExtBody_keeps (ho : .parseExt ∉ o.writers) : (parseExtBody s).Leaves (Keeps o s) := by
  refine State.checkInLen_leaves (.refl s) (State.checkRdPtr_leaves (.refl s) ?_)
  split
  · exact .refl s
  unfold State.parseExtFrom
  split
  · exact .refl s
  cases o with
  | ext => exact absurd (by decide) ho
  | freq | tree | codes | payload => rfl

theorem parseTableBody_keeps (ho : .parseTable ∉ o.writers) : (parseTableBody s).Leaves (Keeps o s) := by
  refine State.checkInLen_leaves (.refl s) (State.checkRdPtr_leaves (.refl s) ?_)
  split
  · exact .refl s
  unfold State.parseTableFrom
  split
  · exact .refl s
  cases o with
  | codes => exact absurd (by decide) ho
  | freq | tree | payload | ext => rfl

theorem unpackBody_keeps (ho : .unpack ∉ o.writers) : (unpackBody s).Leaves (Keeps o s) := by
  refine State.checkInLen_leaves (.refl s) (State.checkRdPtr_leaves (.refl s) (State.checkTable_leaves (.refl s) ?_))
  split
  · exact .refl s
  unfold State.unpackFrom
  split
  · exact .refl s
  dsimp only
  split
  · exact .refl s
  split
  · exact .store_out o s _ _
  cases o with
  | payload => exact absurd (by decide) ho
  | ext => exact Keeps.store_out .ext s _ _
  | freq | tree | codes => rfl

/-! ### The whole runs -/

theorem compressSteps_keeps_ext : (compressSteps s).Leaves (Keeps .ext s) := by
  refine Ran.Leaves.andThen ((Keeps.registers ..).next (countBody_keeps _ (by decide))) fun s1 h1 => ?_
  refine Ran.Leaves.andThen (h1.next (emitExtBody_keeps s1)) fun s2 h2 => ?_
  split
  · refine Ran.Leaves.andThen (h2.next (buildBody_keeps s2 (by decide))) fun s3 h3 => ?_
    refine Ran.Leaves.andThen (h3.next (gencodeBody_keeps s3 (by decide))) fun s4 h4 => ?_
    refine Ran.Leaves.andThen (h4.next (emitTableBody_keeps s4)) fun s5 h5 => ?_
    exact h5.next (packBody_keeps s5 (by decide))
  · exact h2

theorem decompressSteps_keeps (ho : o = .freq ∨ o = .tree) : (decompressSteps s).Leaves (Keeps o s) := by
  have hparts : .parseExt ∉ o.writers ∧ .parseTable ∉ o.writers ∧ .unpack ∉ o.writers := by
    rcases ho with rfl | rfl <;> decide
  obtain ⟨hext, htable, hunpack⟩ := hparts
  refine Ran.Leaves.andThen ((Keeps.registers ..).next (parseExtBody_keeps _ hext)) fun s1 h1 => ?_
  split
  · refine Ran.Leaves.andThen (h1.next (parseTableBody_keeps s1 htable)) fun s2 h2 => ?_
    exact h2.next (unpackBody_keeps s2 hunpack)
  · refine h1.trans ?_
    rcases ho with rfl | rfl <;> rfl

/-- A whole-run command keeps what its steps keep. -/
theorem Keeps.wholeRun {s : State} {steps : State → Ran} (h : (steps s).Leaves (Keeps o s)) :
    (s.checkInLen steps).dropOutput.Leaves (Keeps o s) :=
  (State.checkInLen_leaves (.refl s) h).dropOutput fun t ht => ht.trans (.registers o t ..)

end

/-! ### Every command -/

/-- The body of a command keeps each operand it is no writer of. -/
theorem body_keeps (o : Operand) (i : Instr) (s : State) (ho : i ∉ o.writers) : (body i s).Leaves (Keeps o s) := by
  cases i with
  | nop => exact .refl s
  | clear =>
    cases o with
    | ext => rfl
    | freq | tree | codes | payload => exact absurd (by decide) ho
  | count => exact countBody_keeps s ho
  | build => exact buildBody_keeps s ho
  | gencode => exact gencodeBody_keeps s ho
  | emitExt => exact emitExtBody_keeps s
  | emitTable => exact emitTableBody_keeps s
  | pack => exact packBody_keeps s ho
  | parseExt => exact parseExtBody_keeps s ho
  | parseTable => exact parseTableBody_keeps s ho
  | unpack => exact unpackBody_keeps s ho
  | compress =>
    obtain rfl := Operand.eq_ext_of_not_compress ho
    exact Keeps.wholeRun (compressSteps_keeps_ext s)
  | decompress => exact Keeps.wholeRun (decompressSteps_keeps s (Operand.eq_freq_or_tree_of_not_decompress ho))

/-- A command's start and end write none of these operands. -/
theorem exec_keeps {i : Instr} {s t : State} (h : exec i s = .next t) (o : Operand) (ho : i ∉ o.writers) :
    Keeps o s t := by
  rw [exec_eq_body] at h
  cases h
  have hbody : (body i s.start).Leaves (Keeps o s) := (Keeps.registers ..).next (body_keeps o i s.start ho)
  cases hr : body i s.start with
  | ok u => rw [hr] at hbody; exact hbody.trans (.registers o u ..)
  | raised e info u => rw [hr] at hbody; exact hbody.trans (.registers o u ..)

/-- Settles O53: the command keeps the contents of each operand whose writers it is not among. -/
theorem tablesHaveTheirWriters : Obligations.TablesHaveTheirWriters := by
  intro i s t h
  have keeps := exec_keeps h
  refine ⟨keeps .freq, fun hi => ?_, fun hi => ?_, fun hi => ?_, fun hi => ?_⟩
  · have ht := keeps .tree hi
    exact ⟨congrArg (·.1) ht, congrArg (·.2.1) ht, congrArg (·.2.2) ht⟩
  · have hc := keeps .codes hi
    exact ⟨congrArg (·.1) hc, congrArg (·.2.1) hc, congrArg (·.2.2.1) hc, congrArg (·.2.2.2) hc⟩
  · have hp := keeps .payload hi
    exact ⟨congrArg (·.1) hp, congrArg (·.2.1) hp, congrArg (·.2.2) hp⟩
  · have he := keeps .ext hi
    exact ⟨congrArg (·.1) he, fun j hj => congrArg (·.2 ⟨j, hj⟩) he⟩

end Sys2Proof.Machine

/-! PROOFS. The decoder and the encoder are each other's inverse on the commands (30 R110–R113). -/

namespace Sys2Proof

/-- A word is its two fields (30 R110). -/
theorem rsvdField_append_opcodeField (w : Word) : rsvdField w ++ opcodeField w = w := by
  have h : w.extractLsb' 0 32 = w := BitVec.extractLsb'_eq_self
  rw [rsvdField, opcodeField, BitVec.extractLsb'_append_extractLsb'_eq_extractLsb' (by decide)]
  exact h

/-- The command word of a row of the opcode map is its opcode under RSVD = 0 (30 R110, R111). -/
theorem encode_of_mem_opcodeMap : ∀ row ∈ opcodeMap, encode row.2 = (0 : BitVec 24) ++ row.1 := by decide

theorem decode_encode (i : Instr) : decode (encode i) = .ok i := by cases i <;> rfl

theorem encode_of_decode {w : Word} {i : Instr} (h : decode w = .ok i) : encode i = w := by
  unfold decode at h
  split at h
  case isTrue => cases h
  case isFalse hrsvd =>
    split at h
    case h_2 => cases h
    case h_1 row hfind =>
      obtain rfl : row.2 = i := Except.ok.inj h
      have hop : row.1 = opcodeField w := by simpa using List.find?_some hfind
      rw [encode_of_mem_opcodeMap row (List.mem_of_find?_eq_some hfind), hop, ← not_ne_iff.1 hrsvd,
        rsvdField_append_opcodeField]

/-- A word decodes to a command exactly when it is that command's word (30 R111). -/
theorem decode_eq_ok_iff (w : Word) (i : Instr) : decode w = .ok i ↔ w = encode i :=
  ⟨fun h => (encode_of_decode h).symm, fun h => h ▸ decode_encode i⟩

/-- A word that is no command's decodes to an error (30 R112). -/
theorem decode_error {w : Word} (hw : ∀ i, encode i ≠ w) : ∃ e, decode w = .error e := by
  cases hd : decode w with
  | ok i => exact absurd (encode_of_decode hd) (hw i)
  | error e => exact ⟨e, rfl⟩

/-- Settles O1: each listed word is the command's word of the encoder. -/
theorem commandWords : Obligations.CommandWords := fun w =>
  have word := decode_eq_ok_iff w
  ⟨word .nop, word .clear, word .count, word .build, word .gencode, word .emitExt, word .emitTable, word .pack,
    word .parseExt, word .parseTable, word .unpack, word .compress, word .decompress⟩

/-- Settles O2: the decoder undoes the encoder, and gives a command on its own word only. -/
theorem decoderTotal : Obligations.DecoderTotal := by
  refine ⟨fun i _ => decode_encode i, fun w => ?_⟩
  by_cases hw : ∃ i, encode i = w
  · obtain ⟨i, rfl⟩ := hw
    exact .inl ⟨i, rfl, decode_encode i⟩
  · exact .inr ⟨not_exists.1 hw, decode_error (not_exists.1 hw)⟩

end Sys2Proof

namespace Sys2Proof.Machine

open Sys2Proof.Safety

/-- When the CORE moves next, the step is its turn (20 R94). -/
theorem step_coreTurn {s s' : State} (h : CoreTurn s s') : step s = coreTurn s' := by
  rcases h with ⟨hs, rfl⟩ | ⟨rest, hs, rfl⟩ <;> simp only [step, nextEvent, hs]

theorem phase_of_coreTurn {s s' : State} (h : CoreTurn s s') : s'.phase = s.phase := by
  rcases h with ⟨-, rfl⟩ | ⟨rest, -, rfl⟩ <;> rfl

/-- Settles O4: the word decodes to an error, and its run raises ILLEGAL_COMMAND before any write. -/
theorem illegalWordFails : Obligations.IllegalWordFails := by
  intro s s' w hrun hw hturn
  obtain ⟨e, hd⟩ := decode_error hw
  have hphase : s'.phase = .running w := (phase_of_coreTurn hturn).trans hrun
  rw [step_coreTurn hturn]
  simp only [coreTurn, hphase, hd]
  rfl

end Sys2Proof.Machine

/-! PROOFS. How a command ends, COUNT, and the failures that keep the state (40 R150–R152, 60 R260–R262, R269). -/

namespace Sys2Proof.Machine

open Sys2Proof.Safety

/-! ### How a command ends -/

/-- A command whose body ends well ends with `done()` (60 R261). -/
theorem exec_of_ok {i : Instr} {s u : State} (h : body i s.start = .ok u) : exec i s = .next u.finish := by
  rw [exec_eq_body, h, Ran.complete_ok]

/-- A command whose body raises an error before it writes changes nothing but the report (60 R260, R262). -/
theorem exec_of_raised {i : Instr} {s : State} {e : ErrKind} {info : Word}
    (h : body i s.start = .raised e info s.start) : exec i s = .next (afterError s e.code e.sub info) := by
  rw [exec_eq_body, h]; rfl

/-- Where the body fails, it leaves the state it found (40 R150). -/
def Ran.FailsClean (s : State) : Ran → Prop
  | .ok _ => True
  | .raised _ _ u => u = s

section
variable {s : State} {go : State → Ran}

theorem State.checkInLen_failsClean (h : (go s).FailsClean s) : (s.checkInLen go).FailsClean s := by
  unfold State.checkInLen; split
  · rfl
  · exact h

theorem State.checkRdPtr_failsClean (h : (go s).FailsClean s) : (s.checkRdPtr go).FailsClean s := by
  unfold State.checkRdPtr; split
  · rfl
  · exact h

theorem State.checkTree_failsClean (h : (go s).FailsClean s) : (s.checkTree go).FailsClean s := by
  unfold State.checkTree; split
  · exact h
  · rfl

theorem State.checkTable_failsClean (h : (go s).FailsClean s) : (s.checkTable go).FailsClean s := by
  unfold State.checkTable; split
  · exact h
  · rfl

theorem State.checkRoom_failsClean {size : Nat} (h : (go s).FailsClean s) : (s.checkRoom size go).FailsClean s := by
  unfold State.checkRoom; split
  · rfl
  · exact h

end

theorem countBody_failsClean (s : State) : (countBody s).FailsClean s :=
  State.checkInLen_failsClean (by trivial)

theorem gencodeBody_failsClean (s : State) : (gencodeBody s).FailsClean s :=
  State.checkTree_failsClean (by trivial)

theorem emitExtBody_failsClean (s : State) : (emitExtBody s).FailsClean s :=
  State.checkRoom_failsClean (by trivial)

theorem emitTableBody_failsClean (s : State) : (emitTableBody s).FailsClean s :=
  State.checkTable_failsClean (State.checkRoom_failsClean (by trivial))

theorem buildBody_failsClean (s : State) : (buildBody s).FailsClean s := by
  unfold buildBody
  dsimp only
  split
  · rfl
  split
  · rfl
  · trivial

theorem packBody_failsClean (s : State) : (packBody s).FailsClean s := by
  refine State.checkInLen_failsClean (State.checkTable_failsClean ?_)
  dsimp only
  split
  · rfl
  · exact State.checkRoom_failsClean (by trivial)

theorem parseExtBody_failsClean (s : State) : (parseExtBody s).FailsClean s := by
  refine State.checkInLen_failsClean (State.checkRdPtr_failsClean ?_)
  split
  · rfl
  unfold State.parseExtFrom
  split
  · rfl
  · trivial

theorem parseTableBody_failsClean (s : State) : (parseTableBody s).FailsClean s := by
  refine State.checkInLen_failsClean (State.checkRdPtr_failsClean ?_)
  split
  · rfl
  unfold State.parseTableFrom
  split
  · rfl
  · trivial

/-- A primitive but UNPACK makes its checks before it writes anything (40 R150). -/
theorem body_failsClean (i : Instr) (s : State) (hi : i ∉ [Instr.unpack, .compress, .decompress]) :
    (body i s).FailsClean s := by
  cases i with
  | nop | clear => trivial
  | count => exact countBody_failsClean s
  | build => exact buildBody_failsClean s
  | gencode => exact gencodeBody_failsClean s
  | emitExt => exact emitExtBody_failsClean s
  | emitTable => exact emitTableBody_failsClean s
  | pack => exact packBody_failsClean s
  | parseExt => exact parseExtBody_failsClean s
  | parseTable => exact parseTableBody_failsClean s
  | unpack | compress | decompress => exact absurd (by decide) hi

/-- Settles O55: the body that fails leaves what it found; one that ends well leaves ERROR as the start set it, 0. -/
theorem failedPrimitiveKeepsState : Obligations.FailedPrimitiveKeepsState := by
  intro i s t hi h ht
  rw [exec_eq_body] at h
  cases h
  have hclean := body_failsClean i s.start hi
  have hframed := body_framed i s.start
  cases hr : body i s.start with
  | ok u =>
    rw [hr] at ht hframed
    have herror : u.error = false := congrArg Control.error hframed.control
    cases herror.symm.trans ht
  | raised e info u =>
    rw [hr] at hclean
    obtain rfl : u = s.start := hclean
    rfl

/-! ### COUNT -/

/-- The state COUNT leaves (40 R151). -/
def State.counted (s : State) : State :=
  { s with
    freq := tally (s.inBytes 0 s.inLen.toNat)
    nsym := BitVec.ofNat 9 (presentSymbols (tally (s.inBytes 0 s.inLen.toNat))).length
    treeValid := false
    tableValid := false }

theorem countBody_eq {s : State} (h : s.inLen.toNat ≤ s.params.inCap) : countBody s = .ok s.counted :=
  State.checkInLen_pass h

theorem symbols_nodup : symbols.Nodup := by
  refine List.nodup_range.map_on fun i hi j hj h => ?_
  have hi := List.mem_range.1 hi
  have hj := List.mem_range.1 hj
  simpa [Nat.mod_eq_of_lt, hi, hj] using congrArg BitVec.toNat h

theorem mem_symbols (b : Byte) : b ∈ symbols :=
  List.mem_map.2 ⟨b.toNat, List.mem_range.2 b.isLt, by simp⟩

/-- The counts of the 256 symbols in a byte sequence sum to its length (40 R152). -/
theorem sum_count_symbols (bs : List Byte) : (symbols.map fun b => bs.count b).sum = bs.length := by
  rw [← List.sum_toFinset _ symbols_nodup]
  have hmem : ∀ b ∈ (bs : Multiset Byte), b ∈ symbols.toFinset := fun b _ => List.mem_toFinset.2 (mem_symbols b)
  have h := Multiset.sum_count_eq_card hmem
  simpa only [Multiset.coe_count, Multiset.coe_card] using h

/-- FREQ counts the input: each count fits in 32 bits (00 R10). -/
theorem State.counted_freqOf (s : State) (b : Byte) :
    (s.counted.freqOf b).toNat = (s.inBytes 0 s.inLen.toNat).count b := by
  have hle : (s.inBytes 0 s.inLen.toNat).count b ≤ s.inLen.toNat := by
    simpa using List.count_le_length (a := b) (l := s.inBytes 0 s.inLen.toNat)
  have hget : s.counted.freqOf b = BitVec.ofNat 32 ((s.inBytes 0 s.inLen.toNat).count b) := tally_get _ b
  rw [hget]
  exact Nat.mod_eq_of_lt (Nat.lt_of_le_of_lt hle s.inLen.isLt)

theorem State.counted_freqOf_ne_zero (s : State) (b : Byte) :
    s.counted.freqOf b ≠ 0 ↔ b ∈ s.inBytes 0 s.inLen.toNat := by
  rw [← List.count_pos_iff, ← s.counted_freqOf, ← BitVec.toNat_inj.ne]
  exact Nat.pos_iff_ne_zero.symm

theorem State.counted_freqSum (s : State) : freqSum s.counted = s.inLen.toNat := by
  simp only [freqSum, s.counted_freqOf, sum_count_symbols, State.inBytes_length]

theorem ofNat_presentSymbols_length (freq : Vector Word 256) :
    (BitVec.ofNat 9 (presentSymbols freq).length).toNat = (presentSymbols freq).length := by
  have := presentSymbols_length_le freq
  exact Nat.mod_eq_of_lt (show _ < 2 ^ 9 by omega)

theorem State.counted_nsym (s : State) : s.counted.nsym.toNat = presentCount s.counted := by
  rw [presentCount_eq]
  exact ofNat_presentSymbols_length _

theorem State.mem_inBytes {s : State} {n : Nat} {b : Byte} : b ∈ s.inBytes 0 n ↔ ∃ i, i < n ∧ s.inByte i = b := by
  simp [State.inBytes]

/-- Settles O24: COUNT past its check tallies the input. -/
theorem countResult : Obligations.CountResult := by
  intro s h
  refine ⟨_, exec_of_ok (countBody_eq h), s.counted_freqOf, fun b => ?_, s.counted_freqSum, s.counted_nsym, rfl⟩
  exact (s.counted_freqOf_ne_zero b).trans State.mem_inBytes

end Sys2Proof.Machine

/-! PROOFS. BUILD (40 R155–R161): a merge takes the two least nodes of the queue and keeps the queue's total weight. -/

namespace Sys2Proof.Machine

open Sys2Proof.Safety

/-! ### The order of extraction -/

/-- What the order of extraction compares: the weight, then the index (40 R159). -/
def extractKey (nodes : Vector Node 511) (n : Nat) : Nat ×ₗ Nat := toLex ((nodeAt nodes n).weight.toNat, n)

theorem extractKey_injective (nodes : Vector Node 511) : Function.Injective (extractKey nodes) := fun _ _ h =>
  congrArg (fun k => (ofLex k).2) h

theorem less_iff_extractKey (s : State) (a b : Nat) : Less s a b ↔ extractKey s.nodes a < extractKey s.nodes b := by
  simp only [Less, extractKey, Prod.Lex.toLex_lt_toLex, BitVec.lt_def, BitVec.toNat_inj]

theorem keyLess_iff_extractKey (nodes : Vector Node 511) (a b : Nat) :
    keyLess nodes a b = true ↔ extractKey nodes a < extractKey nodes b := by
  simp only [keyLess, extractKey, Prod.Lex.toLex_lt_toLex, BitVec.lt_def, Bool.or_eq_true, Bool.and_eq_true,
    decide_eq_true_eq, beq_iff_eq, BitVec.toNat_inj]

/-- `minKey` takes a least node (40 R155). -/
theorem minKey_le (nodes : Vector Node 511) {q : List Nat} {x : Nat} (hx : x ∈ q) :
    extractKey nodes (minKey nodes q) ≤ extractKey nodes x := by
  have fold (l : List Nat) (m : Nat) : ∀ x ∈ m :: l,
      extractKey nodes (l.foldl (fun m k => if keyLess nodes k m then k else m) m) ≤ extractKey nodes x := by
    induction l generalizing m with
    | nil => intro x hx; rw [List.mem_singleton.1 hx]; exact le_refl _
    | cons k rest ih =>
      rw [List.foldl_cons]
      set m' := if keyLess nodes k m then k else m with hm'
      have hmk : extractKey nodes m' ≤ extractKey nodes m ∧ extractKey nodes m' ≤ extractKey nodes k := by
        by_cases h : keyLess nodes k m = true
        · rw [hm', if_pos h]
          exact ⟨le_of_lt ((keyLess_iff_extractKey nodes k m).1 h), le_refl _⟩
        · rw [hm', if_neg h]
          exact ⟨le_refl _, le_of_not_gt (mt (keyLess_iff_extractKey nodes k m).2 h)⟩
      have hhead := ih m' m' List.mem_cons_self
      intro x hx
      rcases List.mem_cons.1 hx with rfl | hx
      · exact hhead.trans hmk.1
      rcases List.mem_cons.1 hx with rfl | hx
      · exact hhead.trans hmk.2
      · exact ih m' x (List.mem_cons_of_mem _ hx)
  cases q with
  | nil => cases hx
  | cons n rest => exact fold rest n x hx

theorem minKey_lt (nodes : Vector Node 511) {q : List Nat} {x : Nat} (hx : x ∈ q) (hne : x ≠ minKey nodes q) :
    extractKey nodes (minKey nodes q) < extractKey nodes x :=
  lt_of_le_of_ne (minKey_le nodes hx) fun h => hne (extractKey_injective nodes h).symm

/-! ### What the merge loop keeps -/

/-- What a merge keeps, the loop keeps. -/
theorem Merge.loop_induction {P : Merge → Prop} (hstep : ∀ m : Merge, P m → 2 ≤ m.queue.length → P m.once) (fuel : Nat)
    {m : Merge} (h : P m) : P (Merge.loop fuel m) := by
  induction fuel generalizing m with
  | zero => exact h
  | succ fuel ih =>
    unfold Merge.loop
    split
    · exact h
    · exact ih (hstep m h (by omega))

/-- Each internal node made so far has the two least of the nodes not merged before it as LEFT and RIGHT, LEFT the
lesser (40 R158–R160). -/
def Merge.Least (m : Merge) : Prop :=
  ∀ n, 256 ≤ n → n < m.next →
    extractKey m.nodes (nodeAt m.nodes n).left.toNat < extractKey m.nodes (nodeAt m.nodes n).right.toNat ∧
    ∀ c, (nodeAt m.nodes c).valid = true → c < n → (∀ k, k < n → ¬ Parent m.nodes k c) →
      Parent m.nodes n c ∨ extractKey m.nodes (nodeAt m.nodes n).right.toNat < extractKey m.nodes c

/-- The total weight of the nodes not yet merged. -/
def Merge.queueWeight (m : Merge) : Nat := (m.queue.map fun n => (nodeAt m.nodes n).weight.toNat).sum

section
variable {freq : Vector Word 256} {m : Merge} (h : m.Ok freq) (h2 : 2 ≤ m.queue.length)
include h h2

theorem Merge.Ok.once_extractKey {n : Nat} (hn : n < m.next) :
    extractKey m.once.nodes n = extractKey m.nodes n := by
  rw [extractKey, h.once_old h2 (Nat.ne_of_lt hn), extractKey]

/-- The node a merge makes takes the two least of the queue. -/
theorem Merge.Ok.first_lt_second : extractKey m.nodes m.first < extractKey m.nodes m.second :=
  minKey_lt m.nodes (List.mem_of_mem_erase (second_mem_erase h2)) (h.second_ne_first h2)

omit h2 in
theorem Merge.Ok.second_lt {c : Nat} (hc : c ∈ m.queue) (h1 : c ≠ m.first) (h3 : c ≠ m.second) :
    extractKey m.nodes m.second < extractKey m.nodes c :=
  minKey_lt m.nodes (h.nodup.mem_erase_iff.2 ⟨h1, hc⟩) h3

/-- The node a merge makes: the nodes not merged before it are the queue. -/
theorem Merge.Ok.once_least_next {c : Nat} (hv : (nodeAt m.once.nodes c).valid = true) (hc : c < m.next)
    (hp : ∀ k, k < m.next → ¬ Parent m.once.nodes k c) :
    Parent m.once.nodes m.next c ∨ extractKey m.nodes m.second < extractKey m.nodes c := by
  have hq : c ∈ m.queue := by
    refine (h.queued c).2 ⟨((h.once_valid h2 c).1 hv).resolve_left (Nat.ne_of_lt hc), fun k hk => ?_⟩
    exact hp k (h.lt_next hk.1.2) ((h.once_parent h2 k c).2 (.inr hk))
  by_cases htaken : m.first = c ∨ m.second = c
  · exact .inl ((h.once_parent h2 _ c).2 (.inl ⟨rfl, htaken⟩))
  · rw [not_or] at htaken
    exact .inr (h.second_lt hq (Ne.symm htaken.1) (Ne.symm htaken.2))

/-- A merge keeps that every merge so far took the two least. -/
theorem Merge.Ok.once_least (hl : m.Least) : m.once.Least := by
  intro n h1 hn
  rcases Nat.lt_succ_iff_lt_or_eq.1 hn with hn | rfl
  · have hsame := h.once_old h2 (Nat.ne_of_lt hn)
    have child {c : Nat} (hc : (nodeAt m.nodes n).left.toNat = c ∨ (nodeAt m.nodes n).right.toNat = c) : c < m.next :=
      h.lt_next (h.older n c ⟨⟨h1, h.made n h1 hn⟩, hc⟩).1
    have parent {k c : Nat} (hk : k < m.next) : Parent m.once.nodes k c ↔ Parent m.nodes k c := by
      rw [h.once_parent h2]
      exact or_iff_right fun hk' => Nat.ne_of_lt hk hk'.1
    obtain ⟨hlt, hall⟩ := hl n h1 hn
    rw [hsame, h.once_extractKey h2 (child (.inl rfl)), h.once_extractKey h2 (child (.inr rfl))]
    refine ⟨hlt, fun c hv hc hp => ?_⟩
    rw [h.once_extractKey h2 (hc.trans hn), parent hn]
    rw [h.once_old h2 (Nat.ne_of_lt (hc.trans hn))] at hv
    exact hall c hv hc fun k hk hpk => hp k hk ((parent (hk.trans hn)).2 hpk)
  · rw [h.once_next h2, h.node_left h2, h.node_right h2, h.once_extractKey h2 (h.taken h2 (.inl rfl)).2.1,
      h.once_extractKey h2 (h.taken h2 (.inr rfl)).2.1]
    refine ⟨h.first_lt_second h2, fun c hv hc hp => ?_⟩
    rw [h.once_extractKey h2 hc]
    exact h.once_least_next h2 hv hc hp

/-- A merge keeps the total weight, when 32 bits hold it (40 R157, R162). -/
theorem Merge.Ok.once_queueWeight (hw : m.queueWeight ≤ 0xFFFFFFFF) : m.once.queueWeight = m.queueWeight := by
  set rest := (m.queue.erase m.first).erase m.second with hrest
  have hperm : m.queue.Perm (m.first :: m.second :: rest) :=
    (List.perm_cons_erase (first_mem h2)).trans ((List.perm_cons_erase (second_mem_erase h2)).cons _)
  have hsum : m.queueWeight = (nodeAt m.nodes m.first).weight.toNat +
      ((nodeAt m.nodes m.second).weight.toNat + (rest.map fun n => (nodeAt m.nodes n).weight.toNat).sum) := by
    rw [Merge.queueWeight, (hperm.map _).sum_eq, List.map_cons, List.map_cons, List.sum_cons, List.sum_cons]
  have hnode : m.node.weight.toNat =
      (nodeAt m.nodes m.first).weight.toNat + (nodeAt m.nodes m.second).weight.toNat := by
    rw [Merge.node, BitVec.toNat_add]
    exact Nat.mod_eq_of_lt (by omega)
  have hkept : (rest.map fun n => (nodeAt m.once.nodes n).weight.toNat) =
      rest.map fun n => (nodeAt m.nodes n).weight.toNat := by
    refine List.map_congr_left fun n hn => ?_
    have hq : n ∈ m.queue := List.mem_of_mem_erase (List.mem_of_mem_erase hn)
    rw [h.once_old h2 fun hnext => h.next_not_mem (hnext ▸ hq)]
  have honce : m.once.queueWeight = (nodeAt m.once.nodes m.next).weight.toNat +
      (rest.map fun n => (nodeAt m.once.nodes n).weight.toNat).sum := by
    rw [Merge.queueWeight]
    exact List.sum_cons
  rw [honce, h.once_next h2, hnode, hkept, hsum, Nat.add_assoc]

end

/-! ### The merged leaves -/

theorem sum_map_filter_bne_zero {α : Type} (l : List α) (w : α → Word) :
    ((l.filter fun a => w a != 0).map fun a => (w a).toNat).sum = (l.map fun a => (w a).toNat).sum := by
  induction l with
  | nil => rfl
  | cons a l ih =>
    rw [List.filter_cons]
    split
    · rw [List.map_cons, List.sum_cons, ih, List.map_cons, List.sum_cons]
    · next h =>
      have h0 : w a = 0 := by simpa using h
      rw [List.map_cons, List.sum_cons, ih, h0]
      exact (Nat.zero_add _).symm

/-- The leaves carry the sum of the frequencies. -/
theorem leaves_queueWeight (freq : Vector Word 256) :
    (Merge.mk (leafNodes freq) (presentSymbols freq) 256).queueWeight = totalWeight freq := by
  have hleaf (n : Nat) : (nodeAt (leafNodes freq) n).weight = freq.getD n 0 := by
    rw [nodeAt_leafNodes]
    split
    · next h => exact h.symm
    · rfl
  have hall : freq.toList = (List.range 256).map fun n => freq.getD n 0 := by
    have h := congrArg (List.map Prod.fst) (zipIdx_toList freq 0)
    simpa [Function.comp_def] using h
  simp only [Merge.queueWeight, hleaf]
  rw [presentSymbols_eq, sum_map_filter_bne_zero, totalWeight, hall, List.map_map]
  rfl

theorem mergeAll_least (freq : Vector Word 256) : (mergeAll freq).Least := by
  have h0 : (Merge.mk (leafNodes freq) (presentSymbols freq) 256).Least := fun n h1 hn => absurd hn (Nat.not_lt.2 h1)
  have hstep (m : Merge) (h : m.Ok freq ∧ m.Least) (h2 : 2 ≤ m.queue.length) : m.once.Ok freq ∧ m.once.Least :=
    ⟨h.1.once h2, h.1.once_least h2 h.2⟩
  exact (Merge.loop_induction hstep 255 ⟨.start freq, h0⟩).2

theorem mergeAll_queueWeight {freq : Vector Word 256} (hw : totalWeight freq ≤ 0xFFFFFFFF) :
    (mergeAll freq).queueWeight = totalWeight freq := by
  have hstep (m : Merge) (h : m.Ok freq ∧ m.queueWeight = totalWeight freq) (h2 : 2 ≤ m.queue.length) :
      m.once.Ok freq ∧ m.once.queueWeight = totalWeight freq :=
    ⟨h.1.once h2, (h.1.once_queueWeight h2 (h.2 ▸ hw)).trans h.2⟩
  exact (Merge.loop_induction hstep 255 ⟨.start freq, leaves_queueWeight freq⟩).2

/-! ### BUILD -/

/-- The state BUILD leaves (40 R155). -/
def State.built (s : State) : State :=
  { s with
    nodes := (mergeAll s.freq).nodes
    root := BitVec.ofNat 9 ((mergeAll s.freq).queue.headD 0)
    nsym := BitVec.ofNat 9 (presentSymbols s.freq).length
    nnodes := BitVec.ofNat 10 (2 * (presentSymbols s.freq).length - 1)
    treeValid := true
    tableValid := false }

theorem freqOf_eq_getD (s : State) (b : Byte) : s.freqOf b = s.freq.getD b.toNat 0 := by
  simp [State.freqOf, Vector.getD, b.isLt]

/-- The present symbols are those with FREQ ≠ 0. -/
theorem toNat_mem_presentSymbols (s : State) (b : Byte) : b.toNat ∈ presentSymbols s.freq ↔ s.freqOf b ≠ 0 := by
  rw [mem_presentSymbols, freqOf_eq_getD]

theorem presentSymbols_eq_nil_iff (s : State) : presentSymbols s.freq = [] ↔ ∀ b, s.freqOf b = 0 := by
  rw [List.eq_nil_iff_forall_not_mem]
  constructor
  · exact fun h b => not_not.1 (mt (toNat_mem_presentSymbols s b).2 (h _))
  · intro h n hn
    have hval : (BitVec.ofNat 8 n).toNat = n := Nat.mod_eq_of_lt (presentSymbols_lt hn)
    exact (toNat_mem_presentSymbols s _).1 (hval.symm ▸ hn) (h _)

theorem presentSymbols_length_ne_zero {s : State} (h : ∃ b, s.freqOf b ≠ 0) : (presentSymbols s.freq).length ≠ 0 := by
  obtain ⟨b, hb⟩ := h
  exact fun h0 => hb ((presentSymbols_eq_nil_iff s).1 (List.eq_nil_of_length_eq_zero h0) b)

theorem freqSum_eq_zero {s : State} (h : ∀ b, s.freqOf b = 0) : freqSum s = 0 := by
  simp [freqSum, h]

theorem buildBody_empty {s : State} (h : ∀ b, s.freqOf b = 0) : buildBody s = .raised .emptyAlphabet 0 s :=
  if_pos (by rw [(presentSymbols_eq_nil_iff s).2 h]; rfl)

theorem buildBody_overflow {s : State} (h : 0xFFFFFFFF < freqSum s) : buildBody s = .raised .weightOverflow 0 s := by
  have hex : ∃ b, s.freqOf b ≠ 0 := by
    by_contra hno
    have := freqSum_eq_zero (s := s) (by simpa using hno)
    omega
  rw [freqSum_eq] at h
  exact (if_neg (presentSymbols_length_ne_zero hex)).trans (if_pos h)

theorem buildBody_eq {s : State} (hex : ∃ b, s.freqOf b ≠ 0) (hw : freqSum s ≤ 0xFFFFFFFF) :
    buildBody s = .ok s.built := by
  rw [freqSum_eq] at hw
  exact (if_neg (presentSymbols_length_ne_zero hex)).trans (if_neg (Nat.not_lt.2 hw))

/-- Settles O28: no present symbol. -/
theorem buildEmptyAlphabet : Obligations.BuildEmptyAlphabet := fun s h =>
  exec_of_raised (i := .build) (buildBody_empty (s := s.start) h)

/-- Settles O29: a sum that large has a present symbol, so the sum is what BUILD checks next. -/
theorem buildWeightOverflow : Obligations.BuildWeightOverflow := fun s h =>
  exec_of_raised (i := .build) (buildBody_overflow (s := s.start) h)

theorem State.built_nsym (s : State) : s.built.nsym.toNat = presentCount s := by
  rw [presentCount_eq]
  exact ofNat_presentSymbols_length _

theorem State.built_nnodes (s : State) : s.built.nnodes.toNat = 2 * presentCount s - 1 := by
  rw [presentCount_eq]
  have := presentSymbols_length_le s.freq
  exact Nat.mod_eq_of_lt (show _ < 2 ^ 10 by omega)

/-- The leaves BUILD leaves are the present symbols with their counts (40 R155). -/
theorem State.built_leavesOfFreq (s : State) : LeavesOfFreq s.built := by
  intro b
  have hlower : nodeAt s.built.nodes b.toNat = nodeAt (leafNodes s.freq) b.toNat := (mergeAll_ok s.freq).lower _ b.isLt
  have hfreq : s.built.freqOf b = s.freq.getD b.toNat 0 := freqOf_eq_getD s b
  rw [hlower, nodeAt_leafNodes, hfreq, Node.ofLeaf, BitVec.ofNat_toNat, BitVec.setWidth_eq]
  rfl

theorem State.built_mergesTwoLeast (s : State) : MergesTwoLeast s.built := by
  intro n hi
  have hlt : n < (mergeAll s.freq).next := (mergeAll_ok s.freq).lt_next hi.2
  obtain ⟨hlr, hall⟩ := mergeAll_least s.freq n hi.1 hlt
  refine ⟨(less_iff_extractKey s.built _ _).2 hlr, fun c hv hc hp => ?_⟩
  rcases hall c hv hc fun k hk hpk => hp k hpk.1 hk hpk.2 with hpar | hkey
  · exact .inl hpar.2
  · exact .inr ((less_iff_extractKey s.built _ _).2 hkey)

section
variable {s : State} (hex : ∃ b, s.freqOf b ≠ 0) (hw : freqSum s ≤ 0xFFFFFFFF)
include hex hw

theorem State.built_tree : Tree s.built := by
  have hfresh : TreeOk { s with treeValid := false } := nofun
  have h := buildBody_treeOk _ hfresh
  rw [buildBody_eq (s := { s with treeValid := false }) hex hw] at h
  exact h rfl

omit hw in
/-- ROOT is the one node the merge loop leaves in the queue. -/
theorem State.built_queue : (mergeAll s.freq).queue = [s.built.root.toNat] := by
  obtain ⟨r, hr⟩ := mergeAll_queue (Nat.pos_of_ne_zero (presentSymbols_length_ne_zero hex))
  have hv := (((mergeAll_ok s.freq).queued r).1 (hr ▸ List.mem_singleton.2 rfl)).1
  have hroot : s.built.root.toNat = r := by
    rw [State.built, hr]
    exact Nat.mod_eq_of_lt ((lt_of_valid hv).trans (by decide))
  rw [hr, hroot]

theorem State.built_rootWeight : (nodeAt s.built.nodes s.built.root.toNat).weight.toNat = freqSum s := by
  rw [freqSum_eq] at hw ⊢
  rw [← mergeAll_queueWeight hw, Merge.queueWeight, State.built_queue hex]
  exact (Nat.add_zero _).symm

end

/-- Settles O25: the loop's invariant is a tree on the leaves of FREQ, and its queue keeps their total weight. -/
theorem buildResult : Obligations.BuildResult := by
  intro s hex hw
  have hleaves := s.built_leavesOfFreq
  refine ⟨_, exec_of_ok (buildBody_eq hex hw), ?_, fun b hb => ?_, fun b hb => ?_, State.built_rootWeight hex hw,
    s.built_nsym, s.built_nnodes, rfl⟩
  · exact tree_congr (State.built_tree hex hw) rfl rfl rfl rfl
  · exact (hleaves b).trans (if_neg hb)
  · exact (hleaves b).trans (if_pos hb)

/-- Settles O26: each merge takes the two least nodes of the queue, which holds the nodes not merged before. -/
theorem buildMergesTwoLeast : Obligations.BuildMergesTwoLeast := fun s hex hw =>
  ⟨_, exec_of_ok (buildBody_eq hex hw), s.built_mergesTwoLeast⟩

/-! ### One present symbol -/

section
variable {s : State} {b : Byte} (hb : s.freqOf b ≠ 0) (hc : ∀ c, c ≠ b → s.freqOf c = 0)
include hb hc

theorem presentSymbols_singleton : presentSymbols s.freq = [b.toNat] := by
  refine List.perm_singleton.1 ((List.perm_ext_iff_of_nodup (presentSymbols_nodup _) (List.nodup_singleton _)).2 ?_)
  intro n
  rw [List.mem_singleton]
  refine ⟨fun hn => ?_, fun hn => hn ▸ (toNat_mem_presentSymbols s b).2 hb⟩
  have hval : (BitVec.ofNat 8 n).toNat = n := Nat.mod_eq_of_lt (presentSymbols_lt hn)
  by_contra hne
  refine (toNat_mem_presentSymbols s _).1 (hval.symm ▸ hn) (hc _ fun h => hne ?_)
  rw [← h, hval]

theorem freqSum_single : freqSum s = (s.freqOf b).toNat := by
  rw [freqSum_eq, ← leaves_queueWeight, Merge.queueWeight, presentSymbols_singleton hb hc]
  have hget : s.freq.getD b.toNat 0 ≠ 0 := freqOf_eq_getD s b ▸ hb
  rw [List.map_singleton, List.sum_singleton, nodeAt_leafNodes, if_neg hget, freqOf_eq_getD]
  rfl

/-- One leaf is a tree already: the loop makes no merge (40 R161). -/
theorem mergeAll_single : mergeAll s.freq = ⟨leafNodes s.freq, [b.toNat], 256⟩ := by
  rw [mergeAll, presentSymbols_singleton hb hc, Merge.loop]
  exact if_pos (by simp)

end

/-- Settles O27: one leaf is a tree already. -/
theorem buildSingleSymbol : Obligations.BuildSingleSymbol := by
  intro s b hb hc
  have hw : freqSum s ≤ 0xFFFFFFFF := by
    have := (s.freqOf b).isLt
    rw [freqSum_single hb hc]; omega
  have hmerge := mergeAll_single hb hc
  have hpresent := presentSymbols_singleton hb hc
  refine ⟨_, exec_of_ok (buildBody_eq ⟨b, hb⟩ hw), ?_, fun n hn => ?_, ?_, ?_, ?_, rfl⟩
  · exact (s.built_leavesOfFreq b).trans (if_neg hb)
  · have hnot : n ∉ presentSymbols s.freq := by rw [hpresent, List.mem_singleton]; exact hn
    have hnodes : s.built.nodes = leafNodes s.freq := by rw [State.built, hmerge]
    show (nodeAt s.built.nodes n).valid = false
    rw [hnodes]
    exact Bool.eq_false_iff.2 (mt (leafNodes_valid s.freq n).1 hnot)
  · have hq := State.built_queue ⟨b, hb⟩
    rw [hmerge] at hq
    exact (List.singleton_inj.1 hq).symm
  · show BitVec.ofNat 9 (presentSymbols s.freq).length = 1
    rw [hpresent]; rfl
  · show BitVec.ofNat 10 (2 * (presentSymbols s.freq).length - 1) = 1
    rw [hpresent]; rfl

end Sys2Proof.Machine

/-! PROOFS. GENCODE (40 R165–R169): the codes of a tree are its paths, in ascending order. -/

namespace Sys2Proof.Machine

open Sys2Proof.Safety

/-! ### The order of the codes -/

theorem lt_of_branch {c d e : Bits} (hd : c ++ [false] <+: d) (he : c ++ [true] <+: e) : d < e := by
  obtain ⟨p, rfl⟩ := hd
  obtain ⟨q, rfl⟩ := he
  rw [List.append_assoc, List.append_assoc]
  exact List.append_left_lt (List.cons_lt_cons_iff.2 (.inl (by decide)))

/-- The walk gives the codes in ascending lexicographic order: LEFT, the bit 0, comes first (40 R167). -/
theorem walk_ascending (nodes : Vector Node 511) (fuel n : Nat) (c : Bits) :
    (walk nodes fuel n c).Pairwise fun e f => e.2 < f.2 := by
  induction fuel generalizing n c with
  | zero => exact .nil
  | succ fuel ih =>
    rw [walk]
    split
    · exact List.pairwise_singleton _ _
    · exact List.pairwise_append.2 ⟨ih _ _, ih _ _, fun e he f hf => lt_of_branch (walk_prefix he) (walk_prefix hf)⟩

theorem treeCodes_ascending (nodes : Vector Node 511) (root : Nat) :
    (treeCodes nodes root).Pairwise fun e f => e.2 < f.2 := by
  unfold treeCodes
  split
  · exact List.pairwise_singleton _ _
  · exact walk_ascending ..

/-! ### The codes are paths -/

theorem isPath_congr {s t : State} (hnodes : t.nodes = s.nodes) {n leaf : Nat} {p : Bits} (h : isPath s n p leaf) :
    isPath t n p leaf := by
  induction p generalizing n with
  | nil => exact ⟨h.1, hnodes ▸ h.2⟩
  | cons b q ih =>
    obtain ⟨hleaf, hrest⟩ := h
    refine ⟨hnodes ▸ hleaf, ?_⟩
    rw [hnodes]
    exact ih hrest

section
variable {s : State} (ht : Tree s)
include ht

theorem Descends.isPath {n m : Nat} {p : Bits} (h : Descends s n p m) (hleaf : (nodeAt s.nodes m).leaf = true) :
    isPath s n p m := by
  induction p generalizing n with
  | nil =>
    rcases h.head with ⟨-, rfl⟩ | ⟨_, _, hp, -, -⟩
    · exact ⟨rfl, hleaf⟩
    · cases hp
  | cons b q ih =>
    rcases h.head with ⟨hp, -⟩ | ⟨b', q', hp, hi, hd⟩
    · cases hp
    · cases hp
      exact ⟨(ht.inner n hi).1, ih hd⟩

/-- A code has at most one bit for each internal node (40 R169). -/
theorem Descends.length_le_internals {p : Bits} {m : Nat} (h : Descends s s.root.toNat p m) (h2 : 2 ≤ s.nsym.toNat) :
    p.length ≤ s.nsym.toNat - 1 := by
  cases h with
  | here => exact Nat.zero_le _
  | step h hi b =>
    have hlen := h.length_le ht
    have hroot := ht.rootIndex h2
    have hge := hi.1
    rw [List.length_append, List.length_singleton]
    omega

theorem treeCodes_eq_walk (h2 : 2 ≤ s.nsym.toNat) :
    treeCodes s.nodes s.root.toNat = walk s.nodes 511 s.root.toNat [] := by
  have hroot := ht.rootIndex h2
  have hleaf := (ht.inner s.root.toNat ⟨by omega, ht.top.1⟩).1
  exact if_neg (by rw [hleaf]; exact Bool.false_ne_true)

/-- With two leaves or more, a leaf's code leads to it from ROOT. -/
theorem treeCodes_descends (h2 : 2 ≤ s.nsym.toNat) {e : Byte × Bits} (he : e ∈ treeCodes s.nodes s.root.toNat) :
    Descends s s.root.toNat e.2 e.1.toNat :=
  (mem_walk_top ht e).1 (treeCodes_eq_walk ht h2 ▸ he)

/-- The only node of a tree with one leaf is ROOT. -/
theorem root_of_lone (h1 : s.nsym.toNat = 1) {n : Nat} (hv : (nodeAt s.nodes n).valid = true) :
    s.root.toNat = n := by
  by_contra hne
  obtain ⟨k, ⟨hi, -⟩, -⟩ := ht.owned n hv (Ne.symm hne)
  have := (ht.internals k hi.1).1 hi.2
  have := hi.1
  omega

/-- A lone leaf gets the code 0 (40 R166). -/
theorem treeCodes_lone (h1 : s.nsym.toNat = 1) :
    treeCodes s.nodes s.root.toNat = [(BitVec.ofNat 8 s.root.toNat, [false])] := by
  obtain ⟨hleaf, hsym⟩ := tree_leaf ht ht.top.1 (ht.rootLeaf h1)
  rw [treeCodes, if_pos hleaf, hsym]

/-- The symbols with codes are those of the leaves. -/
theorem mem_treeCodes_iff (b : Byte) :
    b ∈ (treeCodes s.nodes s.root.toNat).map Prod.fst ↔ (nodeAt s.nodes b.toNat).valid = true := by
  have hcount := ht.count
  rcases Nat.lt_or_ge s.nsym.toNat 2 with h | h2
  · have h1 : s.nsym.toNat = 1 := by omega
    rw [treeCodes_lone ht h1, List.map_singleton, List.mem_singleton]
    constructor
    · rintro rfl
      rw [show (BitVec.ofNat 8 s.root.toNat).toNat = s.root.toNat from Nat.mod_eq_of_lt (ht.rootLeaf h1)]
      exact ht.top.1
    · intro hv
      rw [root_of_lone ht h1 hv, BitVec.ofNat_toNat, BitVec.setWidth_eq]
  · rw [treeCodes_eq_walk ht h2, List.mem_map]
    constructor
    · rintro ⟨e, he, rfl⟩
      exact ((mem_walk_top ht e).1 he).valid ht
    · intro hv
      obtain ⟨p, hp⟩ := tree_reaches ht hv
      exact ⟨(b, p), (mem_walk_top ht _).2 hp, rfl⟩

end

/-! ### GENCODE -/

/-- The state GENCODE leaves (40 R165). -/
def State.gencoded (s : State) : State :=
  { s.setTable (CodeTable.ofEntries (treeCodes s.nodes s.root.toNat)) with
    maxLen := maxCodeLen (CodeTable.ofEntries (treeCodes s.nodes s.root.toNat)).len
    tableValid := true }

theorem gencodeBody_eq {s : State} (h : s.treeValid = true) : gencodeBody s = .ok s.gencoded :=
  State.checkTree_pass h

/-- The table GENCODE leaves is that of the tree's codes. -/
theorem State.gencoded_setTable (s : State) :
    s.gencoded.setTable (CodeTable.ofEntries (treeCodes s.nodes s.root.toNat)) = s.gencoded := rfl

theorem State.gencoded_longest (s : State) : Longest s.gencoded := longest_maxCodeLen rfl

section
variable {s : State} (ht : Tree s)
include ht

theorem State.gencoded_table : Table s.gencoded :=
  have ⟨hes, hlength⟩ := treeCodes_entries ht
  table_of_entries s.gencoded_setTable hes hlength.symm s.gencoded_longest

theorem State.gencoded_codeLenOf_ne_zero (b : Byte) :
    s.gencoded.codeLenOf b ≠ 0 ↔ (nodeAt s.nodes b.toNat).valid = true :=
  (codeLenOf_ne_zero_iff s.gencoded_setTable (treeCodes_entries ht).1 b).trans (mem_treeCodes_iff ht b)

/-- Each leaf's symbol has an entry, and the table has that entry's code. -/
theorem State.gencoded_entry {b : Byte} (hv : (nodeAt s.nodes b.toNat).valid = true) :
    (b, s.gencoded.code b) ∈ treeCodes s.nodes s.root.toNat := by
  obtain ⟨e, he, rfl⟩ := List.mem_map.1 ((mem_treeCodes_iff ht b).2 hv)
  rw [code_entry s.gencoded_setTable (treeCodes_entries ht).1 he]
  exact he

theorem State.gencoded_descends (h2 : 2 ≤ s.nsym.toNat) {b : Byte} (hv : (nodeAt s.nodes b.toNat).valid = true) :
    Descends s s.root.toNat (s.gencoded.code b) b.toNat :=
  treeCodes_descends ht h2 (State.gencoded_entry ht hv)

/-- ORDER lists the symbols in the order of the walk. -/
theorem State.gencoded_codes :
    s.gencoded.orderedSymbols.map s.gencoded.code = (treeCodes s.nodes s.root.toNat).map Prod.snd := by
  obtain ⟨hes, hlength⟩ := treeCodes_entries ht
  rw [orderedSymbols_eq s.gencoded_setTable hes hlength.symm, List.map_map]
  exact List.map_congr_left fun e he => code_entry s.gencoded_setTable hes he

/-- The table GENCODE leaves is that of the tree (40 R165–R168). -/
theorem State.gencoded_codesOfTree : CodesOfTree s.gencoded where
  coded := State.gencoded_codeLenOf_ne_zero ht
  path h2 b hv := by
    have hpath := (State.gencoded_descends ht h2 hv).isPath ht (tree_leaf ht hv b.isLt).1
    exact isPath_congr (show s.gencoded.nodes = s.nodes from rfl) hpath
  lone h1 b hv := by
    have he := State.gencoded_entry ht hv
    rw [treeCodes_lone ht h1, List.mem_singleton] at he
    exact congrArg Prod.snd he
  ordered := by
    rw [State.gencoded_codes ht]
    exact List.pairwise_map.2 (treeCodes_ascending _ _)

/-- The lengths of the codes GENCODE leaves (40 R169). -/
theorem State.gencoded_codeLenOf_le (h2 : 2 ≤ s.nsym.toNat) (b : Byte) :
    (s.gencoded.codeLenOf b).toNat ≤ s.nsym.toNat - 1 := by
  by_cases hv : (nodeAt s.nodes b.toNat).valid = true
  · rw [← State.code_length]
    exact (State.gencoded_descends ht h2 hv).length_le_internals ht h2
  · rw [not_not.1 (mt (State.gencoded_codeLenOf_ne_zero ht b).1 hv)]
    exact Nat.zero_le _

end

/-- The end of a command writes neither the tree nor the code table. -/
theorem State.finish_coding (s : State) : s.finish.coding = s.coding := rfl

/-- Settles O30: the walk of a tree gives each leaf its path, in ascending order. -/
theorem gencodeResult : Obligations.GencodeResult := by
  intro s hv hs h2
  have ht : Tree s.start := tree_congr hs rfl rfl rfl rfl
  have hcodes := State.gencoded_codesOfTree ht
  have hpath (b : Byte) (hb : (nodeAt s.nodes b.toNat).valid = true) :=
    isPath_congr (show s.nodes = s.start.gencoded.nodes from rfl) (hcodes.path h2 b hb)
  refine ⟨_, exec_of_ok (gencodeBody_eq (s := s.start) hv), ?_, hcodes.coded, hpath, hcodes.ordered,
    State.gencoded_codeLenOf_le ht h2, rfl⟩
  exact tableOk_congr (fun _ => State.gencoded_table ht) (State.finish_coding _) rfl

/-! ### A single leaf -/

/-- The entry of a lone symbol (40 R166). -/
theorem entries_lone (b : Byte) : Entries [(b, [false])] where
  count := ⟨Nat.le_refl 1, by simp⟩
  lengths e he := by simp [List.mem_singleton.1 he]
  once := List.nodup_singleton _
  prefixFree := List.pairwise_singleton _ _

section
variable {s : State} {b : Byte} (htable : s.setTable (CodeTable.ofEntries [(b, [false])]) = s)
include htable

theorem lone_code : s.code b = [false] := code_entry (e := (b, [false])) htable (entries_lone b) List.mem_cons_self

theorem lone_codeLenOf : s.codeLenOf b = 1 :=
  BitVec.eq_of_toNat_eq (codeLenOf_entry htable (entries_lone b) List.mem_cons_self)

theorem lone_codeLenOf_other {c : Byte} (hc : c ≠ b) : s.codeLenOf c = 0 :=
  not_not.1 fun h => hc (List.mem_singleton.1 ((codeLenOf_ne_zero_iff htable (entries_lone b) c).1 h))

theorem lone_codeBitsOf : s.codeBitsOf b = 0 := by
  rw [codeBitsOf_eq_bitsOf htable, (CodeTable.ofEntries_of_mem _ (entries_lone b).once List.mem_cons_self).2]
  simp [codeWord, bitsVal]

/-- The longest code of a lone symbol has one bit. -/
theorem lone_maxLen (hlong : Longest s) : s.maxLen = 1 := by
  obtain ⟨hle, c, hc⟩ := hlong
  by_cases h : c = b
  · rw [← hc, h, lone_codeLenOf htable]
  · have := hle b
    rw [← hc, lone_codeLenOf_other htable h, lone_codeLenOf htable] at this
    exact absurd this (by decide)

end

/-- Settles O31: the table of the one entry with the code 0. -/
theorem gencodeSingleLeaf : Obligations.GencodeSingleLeaf := by
  intro s b hv hleaf hsym
  have hcodes : treeCodes s.nodes s.root.toNat = [(b, [false])] := by rw [treeCodes, if_pos hleaf, hsym]
  have hgencoded : s.start.gencoded.setTable (CodeTable.ofEntries [(b, [false])]) = s.start.gencoded := by
    have h := s.start.gencoded_setTable
    rwa [State.start_nodes, State.start_root, hcodes] at h
  have htable : s.start.gencoded.finish.setTable (CodeTable.ofEntries [(b, [false])]) = s.start.gencoded.finish :=
    congrArg State.finish hgencoded
  refine ⟨_, exec_of_ok (gencodeBody_eq (s := s.start) hv), lone_codeLenOf htable,
    lone_code htable, ?_, orderAt_eq htable (by decide),
    lone_maxLen htable (longest_maxCodeLen rfl), fun c hc => lone_codeLenOf_other htable hc, rfl⟩
  rw [lone_codeBitsOf htable]
  rfl

end Sys2Proof.Machine

/-! PROOFS. The blocks of a container (30 R120–R124): what `emit` stores, and that what EMIT_TABLE and PACK emit are the
blocks of the code table and of the input. -/

namespace Sys2Proof.Machine

open Sys2Proof.Safety

theorem caps_of_wellFormed {p : Params} (h : p.wellFormed = true) : p.inCap ≤ 2 ^ 24 ∧ p.outCap ≤ 2 ^ 24 := by
  simp only [Params.wellFormed, Params.inCapInRange, Params.outCapInRange, Bool.and_eq_true, decide_eq_true_eq] at h
  exact ⟨h.1.2.2, h.2.2⟩

/-! ### `emit` -/

theorem Memory.writeList_append (m : List Host.Cell) (a : Nat) (vs ws : List Byte) :
    Memory.writeList m a (vs ++ ws) = Memory.writeList (Memory.writeList m a vs) (a + vs.length) ws := by
  induction vs generalizing m a with
  | nil => rfl
  | cons v rest ih =>
    rw [List.cons_append, Memory.writeList, ih, Memory.writeList, List.length_cons, Nat.add_right_comm, Nat.add_assoc]

/-- Emitting two blocks is emitting their bytes one after another, while 32 bits hold OUT_LEN. -/
theorem State.emit_emit {s : State} {vs : List Byte} (ws : List Byte) (h : s.outLen.toNat + vs.length < 2 ^ 32) :
    (s.emit vs).emit ws = s.emit (vs ++ ws) := by
  have hlen : (s.emit vs).outLen.toNat = s.outLen.toNat + vs.length := Nat.mod_eq_of_lt h
  have hmem : ((s.emit vs).emit ws).mem = (s.emit (vs ++ ws)).mem := by
    rw [State.emit_mem, hlen, State.emit_mem, State.emit_mem, Memory.writeList_append, Nat.add_assoc]
  have hout : ((s.emit vs).emit ws).outLen = (s.emit (vs ++ ws)).outLen := by
    rw [State.emit_outLen, hlen, State.emit_outLen, List.length_append, Nat.add_assoc]
  show { s with mem := ((s.emit vs).emit ws).mem, outLen := ((s.emit vs).emit ws).outLen } = s.emit (vs ++ ws)
  rw [hmem, hout]
  rfl

/-- `emit` stores its bytes from OUT_LEN up (00 R15). -/
theorem State.emit_outputStored (s : State) (vs : List Byte) : OutputStored s (s.emit vs) vs where
  stored j hj := by
    rw [State.outByte, State.emit_ramByte, if_pos (by omega),
      show outBase + (s.outLen.toNat + j) - (outBase + s.outLen.toNat) = j by omega, List.getElem?_eq_getElem hj]
    rfl
  others a ha := by
    rw [State.emit_ramByte]
    split
    · rw [List.getElem?_eq_none (by omega)]; rfl
    · rfl

/-- `emit` leaves IN_BUF alone. -/
theorem State.emit_inBytes (s : State) (vs : List Byte) {n : Nat} (hn : n ≤ 2 ^ 24) :
    (s.emit vs).inBytes 0 n = s.inBytes 0 n := by
  refine List.map_congr_left fun j hj => ?_
  have hj := List.mem_range.1 hj
  refine (s.emit_ramByte vs _).trans (if_neg ?_)
  simp only [inBase, outBase]
  omega

/-- BUILD reads and writes no buffer. -/
theorem State.emit_built (s : State) (vs : List Byte) : (s.emit vs).built = s.built.emit vs := rfl

/-- GENCODE reads and writes no buffer. -/
theorem State.emit_gencoded (s : State) (vs : List Byte) : (s.emit vs).gencoded = s.gencoded.emit vs := rfl

/-! ### The table block -/

theorem byteBits_injective {a b : Byte} (h : byteBits a = byteBits b) : a = b := by
  refine BitVec.eq_of_getMsbD_eq fun k hk => ?_
  have := congrArg (·[k]?) h
  simpa [byteBits, hk] using this

theorem codeByte_getMsbD (w : BitVec 256) {j k : Nat} (hj : j < 32) (hk : k < 8) :
    (codeByte w j).getMsbD k = w.getMsbD (8 * j + k) := by
  have h1 : 8 * j + k < 256 := by omega
  have h2 : 8 * (31 - j) + (8 - 1 - k) = 256 - 1 - (8 * j + k) := by omega
  have h3 : 8 - 1 - k < 8 := by omega
  simp only [codeByte, BitVec.getMsbD, BitVec.getLsbD_extractLsb', hk, h1, h2, h3, decide_true, Bool.true_and]

theorem State.code_getD (s : State) (b : Byte) (k : Nat) :
    (s.code b).getD k false = if k < (s.codeLenOf b).toNat then (s.codeBitsOf b).getMsbD k else false := by
  rw [State.code, List.getD_eq_getElem?_getD]
  split
  · next h => simp [h]
  · next h => rw [List.getElem?_eq_none (by simpa using h)]; rfl

theorem ceil8_le {n m : Nat} (h : n ≤ 8 * m) : ceil8 n ≤ m := by unfold ceil8; omega

theorem le_ceil8 (n : Nat) : n ≤ 8 * ceil8 n := by unfold ceil8; omega

theorem ceil8_codeLenOf_le (s : State) (b : Byte) : ceil8 (s.codeLenOf b).toNat ≤ 32 := by
  have := (s.codeLenOf b).isLt
  exact ceil8_le (by omega)

/-- The code bytes of a table entry are the packed code, since CODE_BITS past CODE_LEN are 0 (10 R63, 30 R123). -/
theorem codeBytes_eq_packMSB {s : State} (ht : Table s) (b : Byte) :
    (List.range (ceil8 (s.codeLenOf b).toNat)).map (codeByte (s.codeBitsOf b)) = packMSB (s.code b) := by
  rw [packMSB, State.code_length]
  refine List.map_congr_left fun j hj => byteBits_injective ?_
  have hj32 : j < 32 := (List.mem_range.1 hj).trans_le (ceil8_codeLenOf_le s b)
  rw [byteBits_octet]
  refine List.map_congr_left fun k hk => ?_
  rw [codeByte_getMsbD _ hj32 (List.mem_range.1 hk), State.code_getD]
  split
  · rfl
  · next h => exact ht.bitsPad b _ (Nat.not_lt.1 h)

theorem State.orderedSymbols_length (s : State) : s.orderedSymbols.length = s.nsym.toNat := by
  simp [State.orderedSymbols]

/-- What EMIT_TABLE emits is the table block of the code table (30 R122, R123, 42 R214). -/
theorem tableBlock_eq_blockOf {s : State} (ht : Table s) : s.tableBlock = blockOf (entriesOf s) := by
  have hcount : BitVec.setWidth 8 (s.nsym - 1) = BitVec.ofNat 8 ((entriesOf s).length - 1) := by
    have := ht.count
    rw [entriesOf, List.length_map, State.orderedSymbols_length]
    apply BitVec.eq_of_toNat_eq
    simp
    omega
  have hentry (b : Byte) : s.tableEntry b = b :: BitVec.ofNat 8 (s.code b).length :: packMSB (s.code b) := by
    rw [State.tableEntry, codeBytes_eq_packMSB ht, State.code_length, BitVec.ofNat_toNat, BitVec.setWidth_eq]
  rw [State.tableBlock, blockOf, hcount, entriesOf, List.flatMap_map]
  exact congrArg _ (List.flatMap_congr fun b _ => hentry b)

/-- The longest table block: 256 entries of 34 bytes (42 R213). -/
theorem tableSize_le {s : State} (ht : Table s) : s.tableSize ≤ 1 + 256 * 34 := by
  have hentry : ∀ x ∈ s.orderedSymbols.map fun b => 2 + ceil8 (s.codeLenOf b).toNat, x ≤ 34 := by
    intro x hx
    obtain ⟨b, -, rfl⟩ := List.mem_map.1 hx
    have := ceil8_codeLenOf_le s b
    omega
  have hsum := List.sum_le_card_nsmul _ _ hentry
  have := ht.count
  rw [List.length_map, State.orderedSymbols_length, smul_eq_mul] at hsum
  rw [State.tableSize]
  omega

theorem emitTableBody_eq {s : State} (hv : s.tableValid = true) :
    emitTableBody s = s.checkRoom s.tableSize fun s => .ok (s.emit s.tableBlock) :=
  State.checkTable_pass hv

/-! ### The payload block -/

/-- The codes of the input, in input order (41 R180). -/
def State.inputCodes (s : State) : Bits := (s.inBytes 0 s.inLen.toNat).flatMap s.code

theorem State.emit_inputCodes {s : State} (vs : List Byte) (hn : s.inLen.toNat ≤ 2 ^ 24) :
    (s.emit vs).inputCodes = s.inputCodes :=
  congrArg (List.flatMap s.code) (s.emit_inBytes vs hn)

theorem State.emit_tableSize (s : State) (vs : List Byte) : (s.emit vs).tableSize = s.tableSize := rfl

theorem State.emit_tableBlock (s : State) (vs : List Byte) : (s.emit vs).tableBlock = s.tableBlock := rfl

/-- A payload is at most 255 bits for each byte. -/
theorem State.inputCodes_length_le (s : State) : s.inputCodes.length ≤ 255 * s.inLen.toNat := by
  have hcode : ∀ x ∈ (s.inBytes 0 s.inLen.toNat).map fun b => (s.code b).length, x ≤ 255 := by
    intro x hx
    obtain ⟨b, -, rfl⟩ := List.mem_map.1 hx
    have := (s.codeLenOf b).isLt
    rw [State.code_length]
    omega
  have hsum := List.sum_le_card_nsmul _ _ hcode
  rw [List.length_map, State.inBytes_length, smul_eq_mul] at hsum
  rw [State.inputCodes, List.length_flatMap, Nat.mul_comm]
  exact hsum

theorem payloadOf_length (c : Bits) : (payloadOf c).length = 1 + ceil8 c.length := by
  rw [payloadOf, List.length_cons, packMSB_length, Nat.add_comm]

/-- The state PACK leaves (41 R180). -/
def State.packed (s : State) : State :=
  { s.emit (payloadOf s.inputCodes) with
    payOff := s.outLen
    sigBits := BitVec.ofNat 4 (sigBitsOf s.inputCodes.length)
    payBits := BitVec.ofNat 32 s.inputCodes.length }

theorem State.firstUnknown_eq_none {s : State} {bs : List Byte} (h : ∀ b ∈ bs, s.codeLenOf b ≠ 0) :
    s.firstUnknown bs = none := by
  rw [State.firstUnknown, List.findIdx?_eq_none_iff]
  exact fun b hb => beq_eq_false_iff_ne.2 (h b hb)

/-- PACK of an input whose symbols all have codes emits its payload block, where it fits (41 R180, R184). -/
theorem packBody_eq {s : State} (hin : s.inLen.toNat ≤ s.params.inCap) (hv : s.tableValid = true)
    (hcoded : ∀ b ∈ s.inBytes 0 s.inLen.toNat, s.codeLenOf b ≠ 0) :
    packBody s = s.checkRoom (payloadOf s.inputCodes).length fun s => .ok s.packed := by
  have hbits : s.payloadLength (s.inBytes 0 s.inLen.toNat) = s.inputCodes.length := (s.payload_length _).symm
  have hblock : BitVec.ofNat 8 (sigBitsOf s.inputCodes.length) :: packMSB (s.payload (s.inBytes 0 s.inLen.toNat)) =
      payloadOf s.inputCodes := rfl
  rw [packBody, State.checkInLen_pass hin, State.checkTable_pass hv]
  simp only [State.firstUnknown_eq_none hcoded, hbits, hblock, payloadOf_length, State.checkRoom, State.packed]

end Sys2Proof.Machine

/-! PROOFS. COMPRESS of a non-empty input (42 R230, R231): its analysis commands end well, and the container's three
blocks are emitted, each where it fits. -/

namespace Sys2Proof.Machine

open Sys2Proof.Safety

/-! ### What the properties of the tree and the table rest on -/

theorem leavesOfFreq_congr {s t : State} (h : LeavesOfFreq s) (hnodes : t.nodes = s.nodes) (hfreq : t.freq = s.freq) :
    LeavesOfFreq t := by
  intro b
  have hb : t.freqOf b = s.freqOf b := by rw [freqOf_eq_getD, hfreq, freqOf_eq_getD]
  rw [hnodes, hb]
  exact h b

theorem mergesTwoLeast_congr {s t : State} (h : MergesTwoLeast s) (hnodes : t.nodes = s.nodes) : MergesTwoLeast t := by
  cases s; cases t
  cases hnodes
  exact h

section
variable {s t : State} (hc : t.coding = s.coding)
include hc

theorem codeLenOf_congr (b : Byte) : t.codeLenOf b = s.codeLenOf b :=
  congrArg (fun c : Coding => c.codeLen[b.toNat]'b.isLt) hc

theorem code_congr : t.code = s.code := by
  have hbits (b : Byte) : t.codeBitsOf b = s.codeBitsOf b :=
    congrArg (fun c : Coding => c.codeBits[b.toNat]'b.isLt) hc
  exact funext fun b => by rw [State.code, codeLenOf_congr hc, hbits]; rfl

theorem orderedSymbols_congr : t.orderedSymbols = s.orderedSymbols := by
  have hnsym : t.nsym = s.nsym := congrArg Coding.nsym hc
  have horder : t.order = s.order := congrArg Coding.order hc
  rw [State.orderedSymbols, hnsym]
  exact List.map_congr_left fun i _ => by rw [State.orderAt, horder]; rfl

theorem entriesOf_congr : entriesOf t = entriesOf s := by
  rw [entriesOf, orderedSymbols_congr hc, code_congr hc, entriesOf]

theorem codesOfTree_congr (h : CodesOfTree s) : CodesOfTree t := by
  have hnodes : t.nodes = s.nodes := congrArg Coding.nodes hc
  have hnsym : t.nsym = s.nsym := congrArg Coding.nsym hc
  have hroot : t.root = s.root := congrArg Coding.root hc
  constructor
  · intro b
    rw [codeLenOf_congr hc, hnodes]
    exact h.coded b
  · intro h2 b hv
    rw [code_congr hc, hroot]
    exact isPath_congr hnodes (h.path (hnsym ▸ h2) b (hnodes ▸ hv))
  · intro h1 b hv
    rw [code_congr hc]
    exact h.lone (hnsym ▸ h1) b (hnodes ▸ hv)
  · rw [orderedSymbols_congr hc, code_congr hc]
    exact h.ordered

end

/-! ### The analysis commands of COMPRESS -/

/-- COMPRESS before its first primitive (42 R230). -/
def State.compressStart (s : State) : State := { s with outLen := 0, treeValid := false, tableValid := false }

/-- The machine after COUNT, BUILD and GENCODE of COMPRESS, with nothing emitted yet. (Irreducible, so that no
check of an equality computes the tree: what it leaves is said by the lemmas below.) -/
@[irreducible] def State.analysed (s : State) : State := s.compressStart.counted.built.gencoded

theorem State.analysed_def (s : State) : s.analysed = s.compressStart.counted.built.gencoded := by
  rw [State.analysed]

/-- What the three analysis commands leave unchanged. -/
theorem State.analysed_eq (s : State) : s.analysed =
    { s with
      freq := s.analysed.freq, nsym := s.analysed.nsym, nodes := s.analysed.nodes, root := s.analysed.root
      nnodes := s.analysed.nnodes, codeLen := s.analysed.codeLen, codeBits := s.analysed.codeBits
      order := s.analysed.order, maxLen := s.analysed.maxLen, outLen := 0, treeValid := true, tableValid := true } := by
  simp only [State.analysed_def, State.gencoded, State.setTable, State.built, State.counted, State.compressStart]

theorem State.analysed_params (s : State) : s.analysed.params = s.params := by rw [s.analysed_eq]

theorem State.analysed_inLen (s : State) : s.analysed.inLen = s.inLen := by rw [s.analysed_eq]

theorem State.analysed_outLen (s : State) : s.analysed.outLen = 0 := by rw [s.analysed_eq]

theorem State.analysed_tableValid (s : State) : s.analysed.tableValid = true := by rw [s.analysed_eq]

theorem State.analysed_inBytes (s : State) (p n : Nat) : s.analysed.inBytes p n = s.inBytes p n := by
  rw [s.analysed_eq]
  rfl

theorem State.analysed_ramByte (s : State) (a : Nat) : s.analysed.ramByte a = s.ramByte a := by
  rw [s.analysed_eq]
  rfl

theorem State.analysed_inputCodes (s : State) :
    s.analysed.inputCodes = (s.inBytes 0 s.inLen.toNat).flatMap s.analysed.code := by
  rw [State.inputCodes, s.analysed_inBytes, s.analysed_inLen]

theorem State.analysed_freq (s : State) : s.analysed.freq = s.compressStart.counted.freq := by rw [State.analysed]; rfl

theorem State.analysed_nsym (s : State) : s.analysed.nsym = s.compressStart.counted.nsym := by rw [State.analysed]; rfl

theorem State.analysed_leavesOfFreq (s : State) : LeavesOfFreq s.analysed := by
  rw [s.analysed_def]
  exact leavesOfFreq_congr s.compressStart.counted.built_leavesOfFreq rfl rfl

theorem State.analysed_mergesTwoLeast (s : State) : MergesTwoLeast s.analysed := by
  rw [s.analysed_def]
  exact mergesTwoLeast_congr s.compressStart.counted.built_mergesTwoLeast rfl

theorem leavesOfFreq_valid_iff {s : State} (h : LeavesOfFreq s) (b : Byte) :
    (nodeAt s.nodes b.toNat).valid = true ↔ s.freqOf b ≠ 0 := by
  rw [h b]
  split
  · next h0 => exact iff_of_false Bool.false_ne_true (not_not.2 h0)
  · next h0 => exact iff_of_true rfl h0

section
variable {s : State} (hpos : 0 < s.inLen.toNat)
include hpos

theorem State.counted_present : ∃ b, s.counted.freqOf b ≠ 0 := by
  by_contra hno
  have h0 := freqSum_eq_zero (s := s.counted) (by simpa using hno)
  rw [s.counted_freqSum] at h0
  omega

theorem State.counted_built_tree : Tree s.counted.built := by
  refine State.built_tree (State.counted_present hpos) ?_
  have := s.inLen.isLt
  rw [s.counted_freqSum]
  omega

theorem State.analysed_tree : Tree s.analysed := by
  rw [s.analysed_def]
  exact tree_congr (State.counted_built_tree (s := s.compressStart) hpos) rfl rfl rfl rfl

theorem State.analysed_table : Table s.analysed := by
  rw [s.analysed_def]
  exact State.gencoded_table (State.counted_built_tree (s := s.compressStart) hpos)

theorem State.analysed_codesOfTree : CodesOfTree s.analysed := by
  rw [s.analysed_def]
  exact State.gencoded_codesOfTree (State.counted_built_tree (s := s.compressStart) hpos)

/-- The symbols with codes are those of the input. -/
theorem State.analysed_coded_iff (b : Byte) : s.analysed.codeLenOf b ≠ 0 ↔ b ∈ s.inBytes 0 s.inLen.toNat := by
  have hfreq : s.analysed.freqOf b = s.compressStart.counted.freqOf b := by
    rw [freqOf_eq_getD, s.analysed_freq, freqOf_eq_getD]
  rw [(State.analysed_codesOfTree hpos).coded, leavesOfFreq_valid_iff s.analysed_leavesOfFreq, hfreq]
  exact s.compressStart.counted_freqOf_ne_zero b

end

/-! ### The container -/

/-- The extension block and the table block of the input (30 R121, R122). -/
def State.headBlocks (s : State) : List Byte := s.extBlock ++ s.analysed.tableBlock

/-- The container of the input (30 R120). -/
def State.container (s : State) : List Byte := s.headBlocks ++ payloadOf s.analysed.inputCodes

theorem State.headBlocks_length (s : State) : s.headBlocks.length = 1 + s.extLen.toNat + s.analysed.tableSize := by
  rw [State.headBlocks, List.length_append, State.extBlock_length, State.tableBlock_length]

theorem State.container_length (s : State) :
    s.container.length = s.headBlocks.length + (payloadOf s.analysed.inputCodes).length := List.length_append

/-- The longest container an input can need. -/
theorem State.container_length_le {s : State} (hpos : 0 < s.inLen.toNat) :
    s.container.length ≤ 1 + s.extLen.toNat + (1 + 256 * 34) + 1 + 32 * s.inLen.toNat := by
  have htable := tableSize_le (State.analysed_table hpos)
  have hbits : s.analysed.inputCodes.length ≤ 255 * s.inLen.toNat := s.analysed_inLen ▸ s.analysed.inputCodes_length_le
  have hbytes : ceil8 s.analysed.inputCodes.length ≤ 32 * s.inLen.toNat := ceil8_le (by omega)
  rw [s.container_length, s.headBlocks_length, payloadOf_length]
  omega

/-- The state COMPRESS leaves (42 R230). -/
def State.compressed (s : State) : State := (s.analysed.emit s.headBlocks).packed

/-- A step of COMPRESS found no room for its block: the OUT_LEN the container so far would need is above OUT_CAP. -/
def Ran.LacksRoom (s : State) (r : Ran) : Prop :=
  ∃ n u, r = .raised .outOverflow (BitVec.ofNat 32 n) u ∧ s.params.outCap < n ∧ n ≤ s.container.length

theorem State.analysed_emit_outLen (s : State) {vs : List Byte} (h : vs.length < 2 ^ 32) :
    (s.analysed.emit vs).outLen.toNat = vs.length := by
  rw [State.emit_outLen, s.analysed_outLen]
  exact (Nat.mod_eq_of_lt (show 0 + vs.length < 2 ^ 32 by omega)).trans (Nat.zero_add _)

/-- EMIT_TABLE of COMPRESS, where the table block fits. -/
theorem emitTableBody_analysed {s : State} (h : s.headBlocks.length ≤ s.params.outCap) :
    emitTableBody (s.analysed.emit s.extBlock) = .ok (s.analysed.emit s.headBlocks) := by
  have hlength := s.headBlocks_length
  have hext : s.extBlock.length < 2 ^ 24 := by rw [State.extBlock_length]; omega
  have hlen : (s.analysed.emit s.extBlock).outLen.toNat + s.analysed.tableSize = s.headBlocks.length := by
    rw [s.analysed_emit_outLen (by omega), hlength, State.extBlock_length]
  have hfit : s.analysed.outLen.toNat + s.extBlock.length < 2 ^ 32 := by
    rw [s.analysed_outLen]
    exact (Nat.zero_add _).trans_lt (by omega)
  have hroom : (s.analysed.emit s.extBlock).outLen.toNat + s.analysed.tableSize ≤
      (s.analysed.emit s.extBlock).params.outCap := by
    rw [hlen, State.emit_params, s.analysed_params]
    exact h
  have hvalid : (s.analysed.emit s.extBlock).tableValid = true := s.analysed_tableValid
  rw [emitTableBody_eq hvalid, State.emit_tableSize, State.checkRoom_pass hroom, State.emit_tableBlock,
    State.emit_emit _ hfit, State.headBlocks]

theorem Ran.lacksRoom_checkRoom {s u : State} {size : Nat} {go : State → Ran}
    (h : s.params.outCap < u.outLen.toNat + size) (hparams : u.params = s.params)
    (hle : u.outLen.toNat + size ≤ s.container.length) :
    (u.checkRoom size go).LacksRoom s :=
  ⟨_, u, State.checkRoom_fail (hparams ▸ h), h, hle⟩

theorem Ran.LacksRoom.andThen {s : State} {r : Ran} (h : r.LacksRoom s) (f : State → Ran) :
    (r.andThen f).LacksRoom s := by
  obtain ⟨n, u, rfl, hn⟩ := h
  exact ⟨n, u, rfl, hn⟩

section
variable {s : State} (hpos : 0 < s.inLen.toNat) (hin : s.inLen.toNat ≤ s.params.inCap)
include hin

/-- The extension block does not fit. -/
theorem compressSteps_lacksRoom_ext (h : s.params.outCap < 1 + s.extLen.toNat) : (compressSteps s).LacksRoom s := by
  have hcount : countBody s.compressStart = .ok s.compressStart.counted := countBody_eq hin
  have hlen : s.compressStart.counted.outLen.toNat + (1 + s.extLen.toNat) = 1 + s.extLen.toNat := Nat.zero_add _
  have hemit : (emitExtBody s.compressStart.counted).LacksRoom s := by
    refine Ran.lacksRoom_checkRoom (hlen.symm ▸ h) rfl ?_
    have hcontainer := s.container_length
    rw [s.headBlocks_length] at hcontainer
    exact hlen.trans_le (by omega)
  show ((countBody s.compressStart).andThen _).LacksRoom s
  rw [hcount, Ran.andThen_ok]
  exact hemit.andThen _

include hpos

/-- COMPRESS past its extension block, where that fits. -/
theorem compressSteps_eq_emitTable (h : 1 + s.extLen.toNat ≤ s.params.outCap) :
    compressSteps s = (emitTableBody (s.analysed.emit s.extBlock)).andThen packBody := by
  have hcount : countBody s.compressStart = .ok s.compressStart.counted := countBody_eq hin
  have hlen : s.compressStart.counted.outLen.toNat + (1 + s.extLen.toNat) = 1 + s.extLen.toNat := Nat.zero_add _
  have hemit : emitExtBody s.compressStart.counted = .ok (s.compressStart.counted.emit s.extBlock) :=
    State.checkRoom_pass (s := s.compressStart.counted) (hlen.trans_le h)
  have hbuild : buildBody (s.compressStart.counted.emit s.extBlock) =
      .ok (s.compressStart.counted.built.emit s.extBlock) := by
    rw [← State.emit_built]
    refine buildBody_eq (State.counted_present (s := s.compressStart) hpos) ?_
    have hsum : freqSum (s.compressStart.counted.emit s.extBlock) = s.inLen.toNat := s.compressStart.counted_freqSum
    have := s.inLen.isLt
    omega
  have hgencode : gencodeBody (s.compressStart.counted.built.emit s.extBlock) = .ok (s.analysed.emit s.extBlock) := by
    rw [gencodeBody_eq rfl, State.emit_gencoded, s.analysed_def]
  have hpos' : (s.compressStart.counted.emit s.extBlock).inLen.toNat > 0 := hpos
  show (countBody s.compressStart).andThen _ = _
  rw [hcount, Ran.andThen_ok, hemit, Ran.andThen_ok, if_pos hpos', hbuild, Ran.andThen_ok, hgencode, Ran.andThen_ok]

/-- The extension block fits and the table block does not. -/
theorem compressSteps_lacksRoom_table (hext : 1 + s.extLen.toNat ≤ s.params.outCap)
    (h : s.params.outCap < s.headBlocks.length) : (compressSteps s).LacksRoom s := by
  have hlen : (s.analysed.emit s.extBlock).outLen.toNat + s.analysed.tableSize = s.headBlocks.length := by
    rw [s.analysed_emit_outLen (by rw [State.extBlock_length]; omega), s.headBlocks_length, State.extBlock_length]
  have hvalid : (s.analysed.emit s.extBlock).tableValid = true := s.analysed_tableValid
  have hcontainer := s.container_length
  rw [compressSteps_eq_emitTable hpos hin hext, emitTableBody_eq hvalid, State.emit_tableSize]
  have hparams : (s.analysed.emit s.extBlock).params = s.params := s.analysed_params
  exact (Ran.lacksRoom_checkRoom (hlen ▸ h) hparams (hlen.trans_le (by omega))).andThen _

variable (hcap : s.params.inCap ≤ 2 ^ 24 ∧ s.params.outCap ≤ 2 ^ 24)
include hcap

/-- COMPRESS past its table block, where that fits: every input byte has a code. -/
theorem compressSteps_eq_checkRoom (h : s.headBlocks.length ≤ s.params.outCap) :
    compressSteps s =
      (s.analysed.emit s.headBlocks).checkRoom (payloadOf s.analysed.inputCodes).length fun s => .ok s.packed := by
  have hin24 : s.analysed.inLen.toNat ≤ 2 ^ 24 := s.analysed_inLen ▸ hin.trans hcap.1
  have hext : 1 + s.extLen.toNat ≤ s.params.outCap := by rw [s.headBlocks_length] at h; omega
  have htable := emitTableBody_analysed h
  have hin' : (s.analysed.emit s.headBlocks).inLen.toNat ≤ (s.analysed.emit s.headBlocks).params.inCap := by
    rw [State.emit_inLen, State.emit_params, s.analysed_inLen, s.analysed_params]
    exact hin
  have hvalid : (s.analysed.emit s.headBlocks).tableValid = true := s.analysed_tableValid
  have hcoded : ∀ b ∈ (s.analysed.emit s.headBlocks).inBytes 0 (s.analysed.emit s.headBlocks).inLen.toNat,
      (s.analysed.emit s.headBlocks).codeLenOf b ≠ 0 := by
    intro b hb
    refine (State.analysed_coded_iff hpos b).2 ?_
    rwa [State.emit_inLen, State.emit_inBytes _ _ hin24, s.analysed_inBytes, s.analysed_inLen] at hb
  rw [compressSteps_eq_emitTable hpos hin hext, htable, Ran.andThen_ok, packBody_eq hin' hvalid hcoded,
    State.emit_inputCodes _ hin24]

/-- COMPRESS leaves the container of the input in OUT_BUF, or lacks the room for it (42 R230). -/
theorem compressSteps_cases :
    (s.container.length ≤ s.params.outCap ∧ compressSteps s = .ok s.compressed) ∨
      (compressSteps s).LacksRoom s := by
  have hlength := s.container_length
  by_cases hext : 1 + s.extLen.toNat ≤ s.params.outCap
  swap
  · exact .inr (compressSteps_lacksRoom_ext hin (Nat.not_le.1 hext))
  by_cases htable : s.headBlocks.length ≤ s.params.outCap
  swap
  · exact .inr (compressSteps_lacksRoom_table hpos hin hext (Nat.not_le.1 htable))
  have hhead : (s.analysed.emit s.headBlocks).outLen.toNat = s.headBlocks.length :=
    s.analysed_emit_outLen (by omega)
  rw [compressSteps_eq_checkRoom hpos hin hcap htable]
  rcases Nat.lt_or_ge s.params.outCap s.container.length with h | h
  · exact .inr (Ran.lacksRoom_checkRoom (by omega) s.analysed_params (by omega))
  · refine .inl ⟨h, State.checkRoom_pass ?_⟩
    rw [hhead, ← hlength, State.emit_params, s.analysed_params]
    exact h

end

/-! ### What COMPRESS leaves -/

/-- The container in terms of the code table: its three blocks (30 R120–R124). -/
theorem State.container_eq {s : State} (hpos : 0 < s.inLen.toNat) :
    s.container = s.extBlock ++ blockOf (entriesOf s.analysed) ++
      payloadOf ((s.inBytes 0 s.inLen.toNat).flatMap s.analysed.code) := by
  rw [State.container, State.headBlocks, tableBlock_eq_blockOf (State.analysed_table hpos), s.analysed_inputCodes]

theorem State.analysed_tableSize {s : State} (hpos : 0 < s.inLen.toNat) :
    s.analysed.tableSize = (blockOf (entriesOf s.analysed)).length := by
  rw [← State.tableBlock_length, tableBlock_eq_blockOf (State.analysed_table hpos)]

section
variable {s : State} (hin : s.inLen.toNat ≤ 2 ^ 24) (hfit : s.container.length ≤ 2 ^ 24)
include hin hfit

/-- COMPRESS emits the container and writes the payload registers. -/
theorem State.compressed_eq : s.compressed =
    { s.analysed.emit s.container with
      payOff := (s.analysed.emit s.headBlocks).outLen
      sigBits := BitVec.ofNat 4 (sigBitsOf s.analysed.inputCodes.length)
      payBits := BitVec.ofNat 32 s.analysed.inputCodes.length } := by
  have hlength := s.container_length
  have hhead : s.analysed.outLen.toNat + s.headBlocks.length < 2 ^ 32 := by
    rw [s.analysed_outLen]
    exact (Nat.zero_add _).trans_lt (by omega)
  rw [State.compressed, State.packed, State.emit_inputCodes _ (s.analysed_inLen ▸ hin), State.emit_emit _ hhead,
    State.container]

theorem State.compressed_outByte (j : Nat) (hj : j < s.container.length) :
    s.compressed.outByte j = s.container[j] := by
  have h := (s.analysed.emit_outputStored s.container).stored j hj
  rw [s.analysed_outLen, show (0 : Word).toNat + j = j from Nat.zero_add j] at h
  rw [State.compressed_eq hin hfit]
  exact h

theorem State.compressed_ramByte (a : Nat) (ha : ¬ (outBase ≤ a ∧ a < outBase + s.container.length)) :
    s.compressed.ramByte a = s.ramByte a := by
  have h := (s.analysed.emit_outputStored s.container).others a
  rw [s.analysed_outLen, s.analysed_ramByte] at h
  rw [State.compressed_eq hin hfit]
  exact h ha

theorem State.compressed_outLen : s.compressed.outLen.toNat = s.container.length := by
  rw [State.compressed_eq hin hfit]
  exact s.analysed_emit_outLen (by omega)

theorem State.compressed_payOff (hpos : 0 < s.inLen.toNat) :
    s.compressed.payOff.toNat = 1 + s.extLen.toNat + (blockOf (entriesOf s.analysed)).length := by
  have hlength := s.container_length
  rw [State.compressed_eq hin hfit, ← State.analysed_tableSize hpos, ← s.headBlocks_length]
  exact s.analysed_emit_outLen (by omega)

theorem State.compressed_payBits : s.compressed.payBits.toNat = s.analysed.inputCodes.length := by
  have hlength := s.container_length
  have hbits := le_ceil8 s.analysed.inputCodes.length
  rw [payloadOf_length] at hlength
  rw [State.compressed_eq hin hfit]
  exact Nat.mod_eq_of_lt (by omega)

theorem State.compressed_sigBits : s.compressed.sigBits.toNat =
    if s.analysed.inputCodes.length % 8 = 0 then 8 else s.analysed.inputCodes.length % 8 := by
  rw [State.compressed_eq hin hfit]
  refine Nat.mod_eq_of_lt (show sigBitsOf _ < 2 ^ 4 from ?_)
  unfold sigBitsOf
  split <;> omega

/-- What COMPRESS leaves unchanged. -/
theorem State.compressed_frame : s.compressed =
    { s with
      freq := s.compressed.freq, nodes := s.compressed.nodes, nsym := s.compressed.nsym, root := s.compressed.root
      nnodes := s.compressed.nnodes, codeLen := s.compressed.codeLen, codeBits := s.compressed.codeBits
      order := s.compressed.order, maxLen := s.compressed.maxLen, treeValid := true, tableValid := true
      outLen := s.compressed.outLen, mem := s.compressed.mem, payOff := s.compressed.payOff
      sigBits := s.compressed.sigBits, payBits := s.compressed.payBits } := by
  rw [State.compressed_eq hin hfit]
  have h := s.analysed_eq
  generalize s.analysed = g at h ⊢
  rw [h]
  rfl

theorem State.compressed_coding : s.compressed.coding = s.analysed.coding := by
  rw [State.compressed_eq hin hfit]
  rfl

theorem State.compressed_freq : s.compressed.freq = s.compressStart.counted.freq := by
  rw [State.compressed_eq hin hfit, ← s.analysed_freq]
  rfl

end

/-- COMPRESS ends well with the container, or with OUT_OVERFLOW for want of room (42 R230, R233). -/
theorem exec_compress {s : State} (hw : s.params.wellFormed = true) (hpos : 0 < s.inLen.toNat)
    (hin : s.inLen.toNat ≤ s.params.inCap) :
    (s.start.container.length ≤ s.params.outCap ∧ exec .compress s = .next s.start.compressed.finish) ∨
      ∃ u info, exec .compress s = .next (State.raiseErr u .outOverflow info) ∧ s.params.outCap < info.toNat ∧
        info.toNat ≤ s.start.container.length := by
  have hcap := caps_of_wellFormed hw
  have hbody : body .compress s.start = (compressSteps s.start).dropOutput :=
    congrArg Ran.dropOutput (State.checkInLen_pass hin)
  rcases compressSteps_cases (s := s.start) hpos hin hcap with ⟨hfit, hok⟩ | ⟨n, u, hr, hlt, hle⟩
  · exact .inl ⟨hfit, exec_of_ok (by rw [hbody, hok, Ran.dropOutput_ok])⟩
  · have hinfo : (BitVec.ofNat 32 n).toNat = n := by
      have hbound := State.container_length_le (s := s.start) hpos
      rw [State.start_extLen, State.start_inLen] at hbound
      have := s.extLen.isLt
      exact Nat.mod_eq_of_lt (by omega)
    refine .inr ⟨{ u with outLen := 0 }, BitVec.ofNat 32 n, ?_, by rwa [hinfo], by rwa [hinfo]⟩
    rw [exec_eq_body, hbody, hr, Ran.dropOutput_raised, Ran.complete_raised]

/-- Settles O46: the analysis commands end well, so COMPRESS emits the container or lacks the room for a block. -/
theorem compressResult : Obligations.CompressResult := by
  intro s hw hpos hin
  have hcap := caps_of_wellFormed hw
  rcases exec_compress hw hpos hin with ⟨hfit, hexec⟩ | ⟨u, info, hexec, hlt, hle⟩
  swap
  · have hbound := State.container_length_le (s := s.start) hpos
    exact ⟨_, hexec, fun hroom => absurd (hlt.trans_le (hle.trans hbound)) (Nat.not_lt.2 hroom),
      fun _ => ⟨rfl, rfl, hlt⟩, nofun⟩
  have hin24 : s.start.inLen.toNat ≤ 2 ^ 24 := hin.trans hcap.1
  have hfit24 : s.start.container.length ≤ 2 ^ 24 := hfit.trans hcap.2
  have hcoding : s.start.compressed.finish.coding = s.start.analysed.coding :=
    (State.finish_coding _).trans (State.compressed_coding hin24 hfit24)
  have hfreq : s.start.compressed.finish.freq = s.start.compressStart.counted.freq :=
    State.compressed_freq hin24 hfit24
  have hnodes : s.start.compressed.finish.nodes = s.start.analysed.nodes := congrArg Coding.nodes hcoding
  have hnsym : s.start.compressed.finish.nsym = s.start.analysed.nsym := congrArg Coding.nsym hcoding
  have hframe := congrArg State.finish (State.compressed_frame hin24 hfit24)
  have herror : s.start.compressed.finish.error = false := congrArg State.error hframe
  have hcontainer := State.container_eq (s := s.start) hpos
  have hpayload : s.start.analysed.inputCodes =
      (s.inBytes 0 s.inLen.toNat).flatMap s.start.compressed.finish.code := by
    rw [code_congr hcoding]
    exact s.start.analysed_inputCodes
  have hpayBits : s.start.compressed.finish.payBits.toNat = s.start.analysed.inputCodes.length :=
    State.compressed_payBits hin24 hfit24
  refine ⟨_, hexec, fun _ => herror, fun h => absurd h (by rw [herror]; decide), fun _ => ⟨s.start.container, ?_⟩⟩
  refine ⟨?_, State.compressed_outLen hin24 hfit24, ?_, ?_, ?_, ?_, ?_, ?_, ?_, ?_, ?_, ?_, ?_, ?_, ?_, hframe⟩
  · rw [entriesOf_congr hcoding, code_congr hcoding]
    exact hcontainer
  · exact State.compressed_outByte hin24 hfit24
  · intro b
    rw [freqOf_eq_getD, hfreq, ← freqOf_eq_getD]
    exact s.start.compressStart.counted_freqOf b
  · rw [presentCount_eq, hfreq, ← presentCount_eq, hnsym, s.start.analysed_nsym]
    exact s.start.compressStart.counted_nsym
  · refine treeOk_congr (fun _ => State.analysed_tree (s := s.start) hpos) hcoding ?_
    exact congrArg State.treeValid hframe
  · exact leavesOfFreq_congr s.start.analysed_leavesOfFreq hnodes (hfreq.trans s.start.analysed_freq.symm)
  · exact mergesTwoLeast_congr s.start.analysed_mergesTwoLeast hnodes
  · refine tableOk_congr (fun _ => State.analysed_table (s := s.start) hpos) hcoding ?_
    exact congrArg State.tableValid hframe
  · exact codesOfTree_congr hcoding (State.analysed_codesOfTree (s := s.start) hpos)
  · intro b
    rw [codeLenOf_congr hcoding]
    exact State.analysed_coded_iff (s := s.start) hpos b
  · rw [entriesOf_congr hcoding]
    exact State.compressed_payOff hin24 hfit24 hpos
  · rw [hpayBits, hpayload]
  · rw [hpayBits]
    exact State.compressed_sigBits hin24 hfit24
  · exact State.compressed_ramByte hin24 hfit24

end Sys2Proof.Machine

/-! PROOFS. PACK (41 R180–R184): the payload block it emits, bit by bit, and its failures before any write. -/

namespace Sys2Proof.Machine

open Sys2Proof.Safety

/-- Bit k of packed byte j is bit 8j + k of the bit string, 0 past its end (00 R14). -/
theorem packMSB_getMsbD (c : Bits) {j k : Nat} (hj : j < (packMSB c).length) (hk : k < 8) :
    (packMSB c)[j].getMsbD k = c.getD (8 * j + k) false := by
  have hbyte : byteBits (packMSB c)[j] = octet c j := by
    simp only [packMSB, List.getElem_map, List.getElem_range, byteBits_octet]
  have h := congrArg (·[k]?) hbyte
  simpa [byteBits, octet, hk] using h

theorem sigBitsOf_le (n : Nat) : sigBitsOf n ≤ 8 := by
  unfold sigBitsOf
  split <;> omega

/-- Every input byte has a code when the bytes at the input's offsets have (41 R183). -/
theorem State.inBytes_coded {s : State} (h : ∀ i, i < s.inLen.toNat → s.codeLenOf (s.inByte i) ≠ 0) :
    ∀ b ∈ s.inBytes 0 s.inLen.toNat, s.codeLenOf b ≠ 0 := by
  intro b hb
  obtain ⟨i, hi, rfl⟩ := State.mem_inBytes.1 hb
  exact h i hi

/-! ### The state PACK leaves -/

theorem State.packed_outputStored (s : State) : OutputStored s s.packed (payloadOf s.inputCodes) :=
  have h := s.emit_outputStored (payloadOf s.inputCodes)
  ⟨h.stored, h.others⟩

/-- The byte at OUT_LEN counts the significant bits of the last data byte (41 R181). -/
theorem State.packed_header (s : State) :
    (s.packed.outByte s.outLen.toNat).toNat = sigBitsOf s.inputCodes.length := by
  have hbyte : s.packed.outByte s.outLen.toNat = BitVec.ofNat 8 (sigBitsOf s.inputCodes.length) :=
    s.packed_outputStored.stored 0 (by rw [payloadOf_length]; omega)
  have := sigBitsOf_le s.inputCodes.length
  rw [hbyte]
  exact Nat.mod_eq_of_lt (by omega)

/-- The bytes past it are the codes of the input, padded with zeros (41 R180, R182). -/
theorem State.packed_data (s : State) {j k : Nat} (hj : j < ceil8 s.inputCodes.length) (hk : k < 8) :
    (s.packed.outByte (s.outLen.toNat + 1 + j)).getMsbD k = s.inputCodes.getD (8 * j + k) false := by
  have hj' : j < (packMSB s.inputCodes).length := by rwa [packMSB_length]
  have hbyte : s.packed.outByte (s.outLen.toNat + (j + 1)) = (packMSB s.inputCodes)[j] :=
    s.packed_outputStored.stored (j + 1) (by rw [payloadOf_length]; omega)
  rw [Nat.add_assoc, Nat.add_comm 1 j, hbyte, packMSB_getMsbD _ hj' hk]

theorem State.packed_sigBits (s : State) : s.packed.sigBits.toNat = sigBitsOf s.inputCodes.length := by
  have := sigBitsOf_le s.inputCodes.length
  exact Nat.mod_eq_of_lt (show _ < 2 ^ 4 by omega)

section
variable {s : State} (hfit : s.outLen.toNat + 1 + ceil8 s.inputCodes.length ≤ 2 ^ 24)
include hfit

theorem State.packed_outLen : s.packed.outLen.toNat = s.outLen.toNat + 1 + ceil8 s.inputCodes.length := by
  have hlen : s.packed.outLen = BitVec.ofNat 32 (s.outLen.toNat + (payloadOf s.inputCodes).length) := rfl
  rw [hlen, payloadOf_length, ← Nat.add_assoc]
  exact Nat.mod_eq_of_lt (by omega)

theorem State.packed_payBits : s.packed.payBits.toNat = s.inputCodes.length := by
  have := le_ceil8 s.inputCodes.length
  exact Nat.mod_eq_of_lt (show _ < 2 ^ 32 by omega)

end

/-! ### PACK -/

/-- Settles O35: past its checks PACK emits the payload block of the input's codes. -/
theorem packResult : Obligations.PackResult := by
  rintro s c hw hin hv hcoded rfl hroom
  have hbody : packBody s.start = .ok s.start.packed := by
    rw [packBody_eq (s := s.start) hin hv (State.inBytes_coded (s := s.start) hcoded), payloadOf_length]
    exact State.checkRoom_pass (s := s.start) ((Nat.add_assoc _ _ _).symm.trans_le hroom)
  have hfit := hroom.trans (caps_of_wellFormed hw).2
  refine ⟨_, exec_of_ok hbody, s.start.packed_header, fun j k hj hk => s.start.packed_data hj hk,
    State.packed_outLen (s := s.start) hfit, rfl, s.start.packed_sigBits, State.packed_payBits (s := s.start) hfit,
    fun a ha => s.start.packed_outputStored.others a ?_, rfl⟩
  rw [payloadOf_length, ← Nat.add_assoc]
  exact ha

/-- Settles O37: the room for the payload block is checked before it is emitted. -/
theorem packOverflow : Obligations.PackOverflow := by
  rintro s c hin hv hcoded rfl hroom
  rw [Nat.add_assoc] at hroom ⊢
  refine exec_of_raised (e := .outOverflow) ?_
  rw [body, packBody_eq (s := s.start) hin hv (State.inBytes_coded (s := s.start) hcoded), payloadOf_length]
  exact State.checkRoom_fail (s := s.start) hroom

/-- The first byte without a code, by its offset (41 R183). -/
theorem State.firstUnknown_eq_some {s : State} {n i : Nat} (hi : i < n) (hun : s.codeLenOf (s.inByte i) = 0)
    (hcoded : ∀ j, j < i → s.codeLenOf (s.inByte j) ≠ 0) : s.firstUnknown (s.inBytes 0 n) = some i := by
  rw [State.firstUnknown, List.findIdx?_eq_some_iff_getElem]
  refine ⟨by simpa using hi, by simpa [State.inBytes] using hun, fun j hj => ?_⟩
  simpa [State.inBytes] using hcoded j hj

/-- Settles O36: the codes are looked up before the room is checked. -/
theorem packUnknownSymbol : Obligations.PackUnknownSymbol := by
  intro s i hin hv hi hun hcoded
  refine exec_of_raised (e := .unknownSymbol) ?_
  have hfirst := State.firstUnknown_eq_some (s := s.start) (n := s.start.inLen.toNat) hi hun hcoded
  rw [body, packBody, State.checkInLen_pass (s := s.start) hin, State.checkTable_pass (s := s.start) hv]
  simp only [hfirst]

end Sys2Proof.Machine

/-! PROOFS. The matching loop of UNPACK (41 R190): it takes bits while they begin a code, and matches each code at its
last bit, since no code begins another. -/

namespace Sys2Proof.Machine

open Sys2Proof.Safety

/-! ### Looking up the accumulated bits -/

theorem State.code_ne_nil {s : State} {b : Byte} (hb : s.codeLenOf b ≠ 0) : s.code b ≠ [] := by
  intro h
  have hlen := s.code_length b
  rw [h] at hlen
  exact hb (BitVec.eq_of_toNat_eq hlen.symm)

theorem State.codeLenOf_ne_zero_of_code {s : State} {b : Byte} (h : s.code b ≠ []) : s.codeLenOf b ≠ 0 := by
  intro hb
  refine h (List.eq_nil_of_length_eq_zero ?_)
  rw [State.code_length, hb]
  rfl

/-- A symbol the search finds has the accumulated bits as its code. -/
theorem State.code_of_lookup {s : State} {acc : Bits} {b : Byte} (h : s.lookup acc = some b) : s.code b = acc := by
  rw [State.lookup_eq] at h
  have := List.find?_some h
  simp only [Bool.and_eq_true, beq_iff_eq] at this
  exact this.2

/-- Bits that are no symbol's code are not found. -/
theorem State.lookup_eq_none {s : State} {acc : Bits} (h : ∀ b, s.code b ≠ acc) : s.lookup acc = none := by
  cases hl : s.lookup acc with
  | none => rfl
  | some b => exact absurd (State.code_of_lookup hl) (h b)

/-- The whole code of a symbol is found, and as that symbol's (41 R190). -/
theorem State.lookup_code {s : State} (ht : Table s) {b : Byte} (hb : s.codeLenOf b ≠ 0) :
    s.lookup (s.code b) = some b := by
  cases hl : s.lookup (s.code b) with
  | none =>
    rw [State.lookup_eq, List.find?_eq_none] at hl
    exact absurd (by simp) (hl b (mem_symbols b))
  | some c =>
    have hcode := State.code_of_lookup hl
    have hc : s.codeLenOf c ≠ 0 := State.codeLenOf_ne_zero_of_code (hcode ▸ State.code_ne_nil hb)
    by_cases h : c = b
    · rw [h]
    · exact absurd (hcode ▸ List.prefix_rfl) (ht.prefixFree c b h hc hb)

/-! ### Bits at which the loop goes on -/

/-- The loop neither matches these bits nor gives up on them. -/
def Awaits (s : State) (acc : Bits) : Prop := s.lookup acc = none ∧ acc.length ≠ s.maxLen.toNat

theorem table_codeLenOf_le {s : State} (ht : Table s) (b : Byte) : (s.codeLenOf b).toNat ≤ s.maxLen.toNat :=
  BitVec.le_def.1 (ht.longest.1 b)

/-- A table has a symbol, so its longest code has a bit. -/
theorem table_maxLen_pos {s : State} (ht : Table s) : 0 < s.maxLen.toNat := by
  have hlen : 0 < s.orderedSymbols.length := by
    rw [State.orderedSymbols_length]
    exact ht.count.1
  have hb := (ht.coded _).2 (List.getElem_mem hlen)
  have hpos : (s.codeLenOf s.orderedSymbols[0]).toNat ≠ 0 := fun h => hb (BitVec.eq_of_toNat_eq h)
  have := table_codeLenOf_le ht s.orderedSymbols[0]
  omega

/-- Inside a code the loop goes on: what begins a code is no code. -/
theorem awaits_of_prefix_code {s : State} (ht : Table s) {b : Byte} (hb : s.codeLenOf b ≠ 0) {acc : Bits}
    (hne : acc ≠ []) (hp : acc <+: s.code b) (hlt : acc.length < (s.code b).length) : Awaits s acc := by
  refine ⟨State.lookup_eq_none fun c hc => ?_, ?_⟩
  · have hcb : c ≠ b := by
      rintro rfl
      rw [hc] at hlt
      exact Nat.lt_irrefl _ hlt
    refine ht.prefixFree c b hcb (State.codeLenOf_ne_zero_of_code (hc ▸ hne)) hb (hc ▸ hp)
  · have := table_codeLenOf_le ht b
    rw [State.code_length] at hlt
    omega

section
variable {s : State} {more : Bits} (hno : ∀ b, s.codeLenOf b ≠ 0 → ¬ s.code b <+: more)
include hno

/-- Where no code begins the bits, none of their prefixes is a code. -/
theorem lookup_prefix_eq_none {acc : Bits} (hne : acc ≠ []) (hp : acc <+: more) : s.lookup acc = none :=
  State.lookup_eq_none fun b hb => hno b (State.codeLenOf_ne_zero_of_code (hb ▸ hne)) (hb ▸ hp)

theorem awaits_of_no_code {acc : Bits} (hne : acc ≠ []) (hp : acc <+: more) (hlt : acc.length < s.maxLen.toNat) :
    Awaits s acc :=
  ⟨lookup_prefix_eq_none hno hne hp, Nat.ne_of_lt hlt⟩

end

/-! ### One bit of the loop -/

section
variable {s : State} {b : Bool} {rest acc : Bits} {t o : Nat}

theorem State.decodeBits_await (h : Awaits s (acc ++ [b])) :
    s.decodeBits (b :: rest) t o acc = s.decodeBits rest (t + 1) o (acc ++ [b]) := by
  rw [State.decodeBits, h.1]
  exact if_neg h.2

theorem State.decodeBits_give_up (h : s.lookup (acc ++ [b]) = none) (hlen : (acc ++ [b]).length = s.maxLen.toNat) :
    s.decodeBits (b :: rest) t o acc = ⟨[], some (.badCodeword, t)⟩ := by
  rw [State.decodeBits, h]
  exact if_pos hlen

theorem State.decodeBits_full {x : Byte} (h : s.lookup (acc ++ [b]) = some x) (ho : s.params.outCap ≤ o) :
    s.decodeBits (b :: rest) t o acc = ⟨[], some (.outOverflow, t)⟩ := by
  rw [State.decodeBits, h]
  exact if_pos ho

theorem State.decodeBits_match {x : Byte} {syms : List Byte} {stop : Option (ErrKind × Nat)}
    (h : s.lookup (acc ++ [b]) = some x) (ho : o < s.params.outCap)
    (hd : s.decodeBits rest (t + 1) (o + 1) [] = ⟨syms, stop⟩) :
    s.decodeBits (b :: rest) t o acc = ⟨x :: syms, stop⟩ := by
  rw [State.decodeBits, h]
  dsimp only
  rw [if_neg (Nat.not_le.2 ho), hd]

end

/-! ### One code of the loop -/

/-- The loop takes all of `q` while every beginning of it awaits more. -/
theorem State.decodeBits_awaits {s : State} (q rest : Bits) (t o : Nat)
    (h : ∀ acc, acc ≠ [] → acc <+: q → Awaits s acc) :
    s.decodeBits (q ++ rest) t o [] = s.decodeBits rest (t + q.length) o q := by
  induction q using List.reverseRecOn generalizing rest with
  | nil => rfl
  | append_singleton q b ih =>
    have hq : ∀ acc, acc ≠ [] → acc <+: q → Awaits s acc := fun acc hne hp =>
      h acc hne (hp.trans (List.prefix_append q [b]))
    calc s.decodeBits (q ++ [b] ++ rest) t o []
        = s.decodeBits (q ++ b :: rest) t o [] := by rw [List.append_assoc, List.singleton_append]
      _ = s.decodeBits (b :: rest) (t + q.length) o q := ih (b :: rest) hq
      _ = s.decodeBits rest (t + q.length + 1) o (q ++ [b]) :=
          State.decodeBits_await (h _ (by simp) List.prefix_rfl)
      _ = s.decodeBits rest (t + (q ++ [b]).length) o (q ++ [b]) := by
          rw [List.length_append, List.length_singleton, Nat.add_assoc]

section
variable {s : State} (ht : Table s)
include ht

/-- The loop reaches the last bit of a code, and that bit completes the code. -/
theorem State.decodeBits_to_last_bit {b : Byte} (hb : s.codeLenOf b ≠ 0) :
    ∃ q x, q.length + 1 = (s.code b).length ∧ s.lookup (q ++ [x]) = some b ∧
      ∀ rest t o, s.decodeBits (s.code b ++ rest) t o [] = s.decodeBits (x :: rest) (t + q.length) o q := by
  obtain ⟨q, x, hcode⟩ := (List.eq_nil_or_concat' (s.code b)).resolve_left (State.code_ne_nil hb)
  have hlen : q.length + 1 = (s.code b).length := by rw [hcode, List.length_append, List.length_singleton]
  refine ⟨q, x, hlen, hcode ▸ State.lookup_code ht hb, fun rest t o => ?_⟩
  rw [hcode, List.append_assoc, List.singleton_append]
  refine State.decodeBits_awaits q (x :: rest) t o fun acc hne hp => ?_
  have hacc := hp.length_le
  exact awaits_of_prefix_code ht hb hne (hp.trans (hcode ▸ List.prefix_append q [x])) (by omega)

/-- A code at the bits is matched and its symbol stored (41 R190). -/
theorem State.decodeBits_code {b : Byte} (hb : s.codeLenOf b ≠ 0) {rest : Bits} {t o : Nat} {syms : List Byte}
    {stop : Option (ErrKind × Nat)} (ho : o < s.params.outCap)
    (hd : s.decodeBits rest (t + (s.code b).length) (o + 1) [] = ⟨syms, stop⟩) :
    s.decodeBits (s.code b ++ rest) t o [] = ⟨b :: syms, stop⟩ := by
  obtain ⟨q, x, hlen, hlook, hreach⟩ := State.decodeBits_to_last_bit ht hb
  rw [hreach]
  refine State.decodeBits_match hlook ho ?_
  rw [Nat.add_assoc, hlen]
  exact hd

/-- The loop over whole codes stores their symbols, and goes on behind them. -/
theorem State.decodeBits_codes (syms : List Byte) (hcoded : ∀ b ∈ syms, s.codeLenOf b ≠ 0) {more : Bits}
    {t o : Nat} {stop : Option (ErrKind × Nat)} (ho : o + syms.length ≤ s.params.outCap)
    (hd : s.decodeBits more (t + (syms.flatMap s.code).length) (o + syms.length) [] = ⟨[], stop⟩) :
    s.decodeBits (syms.flatMap s.code ++ more) t o [] = ⟨syms, stop⟩ := by
  induction syms generalizing t o with
  | nil => exact hd
  | cons b rest ih =>
    rw [List.length_cons, Nat.add_comm rest.length 1, ← Nat.add_assoc] at ho hd
    rw [List.flatMap_cons, List.length_append, ← Nat.add_assoc] at hd
    rw [List.flatMap_cons, List.append_assoc]
    refine State.decodeBits_code ht (hcoded b List.mem_cons_self) (by omega) ?_
    exact ih (fun c hc => hcoded c (List.mem_cons_of_mem b hc)) ho hd

/-! ### How the loop stops -/

/-- A matched symbol that does not fit stops the loop at the bit that completes it (41 R193). -/
theorem State.decodeBits_code_full {b : Byte} (hb : s.codeLenOf b ≠ 0) {more : Bits} (hp : s.code b <+: more)
    (t : Nat) {o : Nat} (ho : s.params.outCap ≤ o) :
    s.decodeBits more t o [] = ⟨[], some (.outOverflow, t + (s.codeLenOf b).toNat - 1)⟩ := by
  obtain ⟨rest, rfl⟩ := hp
  obtain ⟨q, x, hlen, hlook, hreach⟩ := State.decodeBits_to_last_bit ht hb
  rw [hreach, State.decodeBits_full hlook ho, ← State.code_length, ← hlen, ← Nat.add_assoc, Nat.add_sub_cancel]

/-- Bits that match no code stop the loop at the bit that completes MAXLEN (41 R190). -/
theorem State.decodeBits_badCodeword {more : Bits} (hno : ∀ b, s.codeLenOf b ≠ 0 → ¬ s.code b <+: more)
    (hlen : s.maxLen.toNat ≤ more.length) (t o : Nat) :
    s.decodeBits more t o [] = ⟨[], some (.badCodeword, t + s.maxLen.toNat - 1)⟩ := by
  have hpos := table_maxLen_pos ht
  obtain ⟨q, x, rest, rfl, hq⟩ : ∃ q x rest, more = q ++ x :: rest ∧ q.length + 1 = s.maxLen.toNat := by
    have hlt : s.maxLen.toNat - 1 < more.length := by omega
    refine ⟨more.take (s.maxLen.toNat - 1), more[s.maxLen.toNat - 1], more.drop (s.maxLen.toNat - 1 + 1), ?_, ?_⟩
    · rw [← List.drop_eq_getElem_cons hlt, List.take_append_drop]
    · rw [List.length_take]; omega
  have hawaits : ∀ acc, acc ≠ [] → acc <+: q → Awaits s acc := fun acc hne hp => by
    have := hp.length_le
    exact awaits_of_no_code hno hne (hp.trans (List.prefix_append q _)) (by omega)
  have hlast : q ++ [x] <+: q ++ x :: rest := (List.prefix_append_right_inj q).2 (List.prefix_append [x] rest)
  have hfull : (q ++ [x]).length = s.maxLen.toNat := by rw [List.length_append, List.length_singleton, hq]
  rw [State.decodeBits_awaits q _ _ _ hawaits,
    State.decodeBits_give_up (lookup_prefix_eq_none hno (by simp) hlast) hfull, ← hq, ← Nat.add_assoc,
    Nat.add_sub_cancel]

end

/-- Bits that end inside a code stop the loop at their end (41 R191). -/
theorem State.decodeBits_trailing {s : State} {more : Bits} (hno : ∀ b, s.codeLenOf b ≠ 0 → ¬ s.code b <+: more)
    (hne : more ≠ []) (hlen : more.length < s.maxLen.toNat) (t o : Nat) :
    s.decodeBits more t o [] = ⟨[], some (.trailingBits, t + more.length)⟩ := by
  have hawaits : ∀ acc, acc ≠ [] → acc <+: more → Awaits s acc := fun acc hacc hp =>
    awaits_of_no_code hno hacc hp (hp.length_le.trans_lt hlen)
  have hreach := State.decodeBits_awaits more [] t o hawaits
  rw [List.append_nil] at hreach
  rw [hreach, State.decodeBits, if_neg hne]

end Sys2Proof.Machine

/-! PROOFS. UNPACK (41 R186–R193): its header errors, the symbols it stores, and what a failure leaves. -/

namespace Sys2Proof.Machine

open Sys2Proof.Safety

/-- A store writes its bytes where `emit` does, when it starts at OUT_LEN. -/
theorem State.store_outputStored (s : State) (vs : List Byte) :
    OutputStored s (s.store (outBase + s.outLen.toNat) vs) vs :=
  have h := s.emit_outputStored vs
  ⟨h.stored, h.others⟩

/-! ### The payload block -/

theorem table_start {s : State} (h : Table s) (hv : s.tableValid = true) : Table s.start :=
  tableOk_congr (t := s.start) (fun _ => h) rfl hv

theorem payloadAt_start {s : State} {p : Nat} {c : Bits} (h : PayloadAt s p c) : PayloadAt s.start p c :=
  ⟨h.some, h.header, h.data, h.bits⟩

theorem payloadBits_le (s : State) (p : Nat) : payloadBits s p ≤ 8 * (s.inLen.toNat - p - 1) := by
  unfold payloadBits
  split <;> omega

theorem payloadAt_length {s : State} {p : Nat} {c : Bits} (h : PayloadAt s p c) : c.length = payloadBits s p := by
  rw [← h.bits, List.length_take, bitsMSB_length, State.inBytes_length]
  exact Nat.min_eq_left (payloadBits_le s p)

/-- UNPACK discards the bits the payload block does not count (41 R188). -/
theorem unpackLength_eq {s : State} {p : Nat} {c : Bits} (h : PayloadAt s p c) :
    unpackLength (s.inLen.toNat - p - 1) (s.inByte p).toNat = payloadBits s p := by
  have hk := h.header.2
  unfold unpackLength payloadBits
  split <;> split <;> omega

/-! ### The bodies of UNPACK, check by check -/

theorem State.unpackFrom_badSigbits {s : State} {p k : Nat} (h : k = 0 ∨ 8 < k) :
    s.unpackFrom p k = .raised .badSigbits (BitVec.ofNat 32 p) s :=
  if_pos h

theorem State.unpackFrom_sigbitsNoData {s : State} {p k : Nat} (hk : 1 ≤ k) (hk8 : k < 8)
    (hp : p + 1 = s.inLen.toNat) : s.unpackFrom p k = .raised .sigbitsNoData (BitVec.ofNat 32 p) s := by
  have hnb : s.inLen.toNat - p - 1 = 0 ∧ k < 8 := ⟨by omega, hk8⟩
  unfold State.unpackFrom
  rw [if_neg (by omega)]
  exact if_pos hnb

/-- The state UNPACK leaves when it has stored `syms` and no bit is left (41 R192). -/
def State.unpacked (s : State) (p : Nat) (syms : List Byte) : State :=
  { s.store (outBase + s.outLen.toNat) syms with
    outLen := BitVec.ofNat 32 (s.outLen.toNat + syms.length)
    rdPtr := s.inLen
    payOff := BitVec.ofNat 32 p
    sigBits := BitVec.ofNat 4 (s.inByte p).toNat
    payBits := BitVec.ofNat 32 (payloadBits s p) }

/-- How UNPACK ends with what the matching loop gives (41 R190–R192). -/
def State.unpackEnd (s : State) (p : Nat) (d : Decoded) : Ran :=
  match d.stop with
  | some (e, info) => .raised e (BitVec.ofNat 32 info) (s.store (outBase + s.outLen.toNat) d.syms)
  | none => .ok (s.unpacked p d.syms)

/-- UNPACK of a well-formed payload block runs the matching loop over its significant bits. -/
theorem State.unpackFrom_eq {s : State} {p : Nat} {c : Bits} (h : PayloadAt s p c) :
    s.unpackFrom p (s.inByte p).toNat = s.unpackEnd p (s.decodeBits c 0 s.outLen.toNat []) := by
  obtain ⟨hk1, hk8⟩ := h.header
  have hdata : ¬ (s.inLen.toNat - p - 1 = 0 ∧ (s.inByte p).toNat < 8) := fun ⟨hnb, hk⟩ => by
    have := h.data hnb
    omega
  unfold State.unpackFrom
  dsimp only
  rw [if_neg (by omega), if_neg hdata, unpackLength_eq h, h.bits]
  rfl

section
variable {s : State} (hin : s.inLen.toNat ≤ s.params.inCap) (hv : s.tableValid = true)
include hin hv

/-- The count byte is missing (41 R186). -/
theorem unpackBody_payloadMissing (h : s.rdPtr = s.inLen) :
    unpackBody s = .raised .payloadMissing s.rdPtr s := by
  rw [unpackBody, State.checkInLen_pass hin, State.checkRdPtr_pass (h ▸ Nat.le_refl _), State.checkTable_pass hv]
  exact if_pos h

/-- There is a count byte, at RD_PTR (41 R187). -/
theorem unpackBody_eq_unpackFrom {p : Nat} (hp : s.rdPtr.toNat = p) (hlt : p < s.inLen.toNat) :
    unpackBody s = s.unpackFrom p (s.inByte p).toNat := by
  subst hp
  have hne : s.rdPtr ≠ s.inLen := fun h => Nat.ne_of_lt hlt (congrArg BitVec.toNat h)
  rw [unpackBody, State.checkInLen_pass hin, State.checkRdPtr_pass hlt.le, State.checkTable_pass hv]
  exact if_neg hne

end

/-! ### The header errors -/

/-- Settles O42: the checks of the count byte, in their order. -/
theorem unpackBadHeader : Obligations.UnpackBadHeader := by
  rintro s p k hin hv hp rfl
  have hptr : BitVec.ofNat 32 p = s.rdPtr := by rw [← hp, BitVec.ofNat_toNat, BitVec.setWidth_eq]
  have hbody (hlt : p < s.inLen.toNat) : unpackBody s.start = s.start.unpackFrom p (s.inByte p).toNat :=
    unpackBody_eq_unpackFrom (s := s.start) hin hv hp hlt
  refine ⟨fun h => ?_, fun hlt hk => ?_, fun h hk hk8 => ?_⟩
  · have hend : s.rdPtr = s.inLen := BitVec.eq_of_toNat_eq (hp.trans h)
    exact exec_of_raised (i := .unpack) (unpackBody_payloadMissing (s := s.start) hin hv hend)
  · rw [← hptr]
    exact exec_of_raised (i := .unpack) ((hbody hlt).trans (State.unpackFrom_badSigbits hk))
  · rw [← hptr]
    exact exec_of_raised (i := .unpack)
      ((hbody (by omega)).trans (State.unpackFrom_sigbitsNoData (s := s.start) hk hk8 h))

/-! ### A payload block -/

section
variable {s : State} {p : Nat} {c : Bits} (hin : s.inLen.toNat ≤ s.params.inCap) (hv : s.tableValid = true)
  (hp : s.rdPtr.toNat = p) (hpay : PayloadAt s p c)
include hin hv hp hpay

/-- UNPACK of a well-formed payload block ends as the matching loop does. -/
theorem unpackBody_eq : unpackBody s = s.unpackEnd p (s.decodeBits c 0 s.outLen.toNat []) :=
  (unpackBody_eq_unpackFrom hin hv hp hpay.some).trans (State.unpackFrom_eq hpay)

/-- Where the matching loop stops, UNPACK fails there, with the symbols so far stored and nothing else changed. -/
theorem unpack_stopped {syms : List Byte} {e : ErrKind} {info : Nat}
    (hd : s.start.decodeBits c 0 s.outLen.toNat [] = ⟨syms, some (e, info)⟩) :
    let t := (body .unpack s.start).complete
    t = { afterError s e.code e.sub (BitVec.ofNat 32 info) with mem := t.mem } ∧ OutputStored s t syms := by
  have hbody : body .unpack s.start =
      .raised e (BitVec.ofNat 32 info) (s.start.store (outBase + s.outLen.toNat) syms) :=
    (unpackBody_eq (s := s.start) hin hv hp (payloadAt_start hpay)).trans (congrArg (s.start.unpackEnd p) hd)
  have hstored := s.start.store_outputStored syms
  rw [hbody]
  exact ⟨rfl, hstored.stored, hstored.others⟩

end

/-- Settles O41: the matching loop runs through the codes to the last bit. -/
theorem unpackResult : Obligations.UnpackResult := by
  intro s p syms hw hin hv ht hp hcoded hpay hroom
  have hloop : s.start.decodeBits (syms.flatMap s.code) 0 s.outLen.toNat [] = ⟨syms, none⟩ := by
    have h := State.decodeBits_codes (table_start ht hv) syms hcoded (more := []) (t := 0) (stop := none) hroom rfl
    rwa [List.append_nil] at h
  have hbody : body .unpack s.start = .ok (s.start.unpacked p syms) :=
    (unpackBody_eq (s := s.start) hin hv hp (payloadAt_start hpay)).trans (congrArg (s.start.unpackEnd p) hloop)
  have ⟨hinCap, houtCap⟩ := caps_of_wellFormed hw
  have hlt := hpay.some
  have hbits := payloadBits_le s p
  have hk := hpay.header.2
  have hstored := s.start.store_outputStored syms
  refine ⟨_, exec_of_ok hbody, hstored.stored, Nat.mod_eq_of_lt ?_, rfl, Nat.mod_eq_of_lt ?_, Nat.mod_eq_of_lt ?_,
    Nat.mod_eq_of_lt ?_, hstored.others, rfl⟩
  · show s.outLen.toNat + syms.length < 2 ^ 32
    omega
  · omega
  · show (s.inByte p).toNat < 2 ^ 4
    omega
  · show payloadBits s p < 2 ^ 32
    omega

/-- Settles O43: behind the codes of `syms` the matching loop stops at the bits that follow. -/
theorem unpackStops : Obligations.UnpackStops := by
  intro s p syms more hin _ hv ht hp hcoded hpay hroom
  have hstop {e : ErrKind} {info : Nat} (hd : s.start.decodeBits more (syms.flatMap s.code).length
      (s.outLen.toNat + syms.length) [] = ⟨[], some (e, info)⟩) :=
    unpack_stopped hin hv hp hpay (State.decodeBits_codes (table_start ht hv) syms hcoded hroom
      ((congrArg (s.start.decodeBits more · _ _) (Nat.zero_add _)).trans hd))
  refine ⟨_, exec_eq_body .unpack s, fun hlen hno => ?_, fun hne hlen hno => ?_, fun b hfull hb hcode => ?_⟩
  · exact hstop (State.decodeBits_badCodeword (table_start ht hv) hno hlen _ _)
  · rw [← payloadAt_length hpay, List.length_append]
    exact hstop (State.decodeBits_trailing (s := s.start) hno hne hlen _ _)
  · exact hstop (State.decodeBits_code_full (table_start ht hv) hb hcode _ hfull.ge)

/-! ### What a failure leaves -/

/-- Where the body fails, it has stored bytes of OUT_BUF from OUT_LEN up, within OUT_CAP, and written nothing else. -/
def Ran.FailsStoring (s : State) : Ran → Prop
  | .ok _ => True
  | .raised _ _ u => ∃ vs : List Byte, (vs.length = 0 ∨ s.outLen.toNat + vs.length ≤ s.params.outCap) ∧
      u = s.store (outBase + s.outLen.toNat) vs

theorem Ran.failsStoring_of_clean (s : State) (e : ErrKind) (info : Word) : (Ran.raised e info s).FailsStoring s :=
  ⟨[], .inl rfl, rfl⟩

theorem State.unpackFrom_failsStoring (s : State) (p k : Nat) : (s.unpackFrom p k).FailsStoring s := by
  unfold State.unpackFrom
  split
  · exact Ran.failsStoring_of_clean ..
  dsimp only
  split
  · exact Ran.failsStoring_of_clean ..
  split
  · exact ⟨_, s.decodeBits_stores _ _ _ _, rfl⟩
  · trivial

theorem unpackBody_failsStoring (s : State) : (unpackBody s).FailsStoring s := by
  unfold unpackBody State.checkInLen State.checkRdPtr State.checkTable
  dsimp only
  split
  · exact Ran.failsStoring_of_clean ..
  split
  · exact Ran.failsStoring_of_clean ..
  split
  swap
  · exact Ran.failsStoring_of_clean ..
  split
  · exact Ran.failsStoring_of_clean ..
  · exact s.unpackFrom_failsStoring _ _

/-- Settles O44: a failing body has stored symbols only; one that ends well leaves ERROR as the start set it, 0. -/
theorem unpackFailureLeaves : Obligations.UnpackFailureLeaves := by
  intro s t h herr
  rw [exec_eq_body] at h
  cases h
  have hfails := unpackBody_failsStoring s.start
  have hframed := body_framed .unpack s.start
  cases hr : unpackBody s.start with
  | ok u =>
    rw [body, hr] at herr hframed
    have herror : u.error = false := congrArg Control.error hframed.control
    cases herror.symm.trans herr
  | raised e info u =>
    rw [hr] at hfails
    obtain ⟨vs, hfit, rfl⟩ := hfails
    rw [body, hr]
    refine ⟨rfl, fun a ha => (s.start.store_outputStored vs).others a ?_⟩
    rw [State.start_outLen, State.start_params] at hfit
    rw [State.start_outLen]
    omega

end Sys2Proof.Machine

/-! PROOFS. EMIT_EXT, EMIT_TABLE and PARSE_EXT (42 R210–R218): the blocks they append, and the extension they copy. -/

namespace Sys2Proof.Machine

open Sys2Proof.Safety

/-! ### EMIT_EXT and EMIT_TABLE -/

/-- EMIT_EXT where the extension block fits (42 R210). -/
theorem emitExtBody_eq {s : State} (h : s.outLen.toNat + (1 + s.extLen.toNat) ≤ s.params.outCap) :
    emitExtBody s = .ok (s.emit s.extBlock) :=
  State.checkRoom_pass h

/-- The extension block: EXT_LEN, then the extension (30 R121). -/
theorem State.extBlock_getElem_succ (s : State) {j : Nat} (hj : j < s.extLen.toNat) :
    s.extBlock[j + 1]'(by rw [State.extBlock_length]; omega) = s.extByte j := by
  simp [State.extBlock, State.extBytes]

theorem State.emit_outLen_toNat {s : State} {vs : List Byte} (h : s.outLen.toNat + vs.length ≤ 2 ^ 24) :
    (s.emit vs).outLen.toNat = s.outLen.toNat + vs.length :=
  Nat.mod_eq_of_lt (Nat.lt_of_le_of_lt h (by decide))

/-- The bytes of an emitted extension block. -/
theorem State.emit_extBlock_outByte (s : State) :
    (s.emit s.extBlock).outByte s.outLen.toNat = s.extLen ∧
      ∀ j, j < s.extLen.toNat → (s.emit s.extBlock).outByte (s.outLen.toNat + 1 + j) = s.extByte j := by
  have hstored := (s.emit_outputStored s.extBlock).stored
  have hlen := s.extBlock_length
  refine ⟨hstored 0 (by omega), fun j hj => ?_⟩
  rw [Nat.add_assoc, Nat.add_comm 1 j, hstored (j + 1) (by omega), s.extBlock_getElem_succ hj]

/-- Settles O32: the room for the extension block is there, so it is emitted. -/
theorem emitExtResult : Obligations.EmitExtResult := by
  intro s hw hroom
  rw [Nat.add_assoc] at hroom
  have hlen : s.start.outLen.toNat + s.start.extBlock.length ≤ 2 ^ 24 := by
    rw [State.extBlock_length]
    exact hroom.trans (caps_of_wellFormed hw).2
  obtain ⟨hcount, hext⟩ := s.start.emit_extBlock_outByte
  refine ⟨_, exec_of_ok (i := .emitExt) (emitExtBody_eq (s := s.start) hroom), hcount, hext, ?_,
    fun a ha => (s.start.emit_outputStored _).others a ?_, rfl⟩
  · rw [Nat.add_assoc]
    exact (State.emit_outLen_toNat hlen).trans (congrArg (s.outLen.toNat + ·) s.start.extBlock_length)
  · rw [State.extBlock_length, ← Nat.add_assoc]
    exact ha

/-- Settles O33: what EMIT_TABLE emits is the table block of the code table. -/
theorem emitTableResult : Obligations.EmitTableResult := by
  intro s hw hv ht hroom
  have hblock : s.start.tableBlock = blockOf (entriesOf s) := tableBlock_eq_blockOf (table_start ht hv)
  have hsize : s.start.tableSize = (blockOf (entriesOf s)).length := by rw [← hblock, State.tableBlock_length]
  have hbody : emitTableBody s.start = .ok (s.start.emit (blockOf (entriesOf s))) := by
    rw [emitTableBody_eq (s := s.start) hv, hsize, State.checkRoom_pass (s := s.start) hroom, hblock]
  have hstored := s.start.emit_outputStored (blockOf (entriesOf s))
  exact ⟨_, exec_of_ok (i := .emitTable) hbody, hstored.stored,
    State.emit_outLen_toNat (s := s.start) (hroom.trans (caps_of_wellFormed hw).2), hstored.others, rfl⟩

/-! ### PARSE_EXT -/

/-- The state PARSE_EXT leaves when the extension block at `p` has `l` extension bytes (42 R217). -/
def State.parsedExt (s : State) (p l : Nat) : State :=
  { s.store extBase (s.inBytes (p + 1) l ++ List.replicate (255 - l) 0) with
    extLen := BitVec.ofNat 8 l
    rdPtr := BitVec.ofNat 32 (p + 1 + l) }

section
variable {s : State} (hin : s.inLen.toNat ≤ s.params.inCap)
include hin

/-- The length byte is missing (42 R218). -/
theorem parseExtBody_missing (h : s.rdPtr = s.inLen) : parseExtBody s = .raised .extTruncated s.rdPtr s := by
  rw [parseExtBody, State.checkInLen_pass hin, State.checkRdPtr_pass (h ▸ Nat.le_refl _)]
  exact if_pos h

variable {p l : Nat} (hp : s.rdPtr.toNat = p) (hl : (s.inByte p).toNat = l) (hlt : p < s.inLen.toNat)
include hp hl hlt

/-- There is a length byte, at RD_PTR (42 R217). -/
theorem parseExtBody_eq_parseExtFrom : parseExtBody s = s.parseExtFrom p l := by
  subst hp hl
  have hne : s.rdPtr ≠ s.inLen := fun h => Nat.ne_of_lt hlt (congrArg BitVec.toNat h)
  rw [parseExtBody, State.checkInLen_pass hin, State.checkRdPtr_pass hlt.le]
  exact if_neg hne

theorem parseExtBody_eq (h : p + 1 + l ≤ s.inLen.toNat) : parseExtBody s = .ok (s.parsedExt p l) :=
  (parseExtBody_eq_parseExtFrom hin hp hl hlt).trans (if_neg (Nat.not_lt.2 h))

theorem parseExtBody_short (h : s.inLen.toNat < p + 1 + l) : parseExtBody s = .raised .extTruncated s.rdPtr s := by
  have hptr : BitVec.ofNat 32 p = s.rdPtr := by rw [← hp, BitVec.ofNat_toNat, BitVec.setWidth_eq]
  rw [parseExtBody_eq_parseExtFrom hin hp hl hlt, State.parseExtFrom, if_pos h, hptr]

end

section
variable {s : State} {p l : Nat}

/-- PARSE_EXT copies the extension. -/
theorem State.parsedExt_extByte_of_lt {j : Nat} (hj : j < l) :
    (s.parsedExt p l).extByte j = s.inByte (p + 1 + j) := by
  refine (State.store_ramByte s extBase _ (extBase + j)).trans ?_
  rw [if_pos (Nat.le_add_right _ _), Nat.add_sub_cancel_left, List.getElem?_append_left (by simpa using hj)]
  simp [State.inBytes, hj]

/-- PARSE_EXT zero-fills EXT past the extension. -/
theorem State.parsedExt_extByte_of_ge {j : Nat} (hj : l ≤ j) (hj255 : j < 255) :
    (s.parsedExt p l).extByte j = 0 := by
  refine (State.store_ramByte s extBase _ (extBase + j)).trans ?_
  rw [if_pos (Nat.le_add_right _ _), Nat.add_sub_cancel_left, List.getElem?_append_right (by simpa using hj),
    State.inBytes_length, List.getElem?_replicate, if_pos (by omega)]
  rfl

/-- PARSE_EXT writes no byte outside EXT. -/
theorem State.parsedExt_ramByte (hl : l ≤ 255) {a : Nat} (ha : ¬ (extBase ≤ a ∧ a < extBase + 255)) :
    (s.parsedExt p l).ramByte a = s.ramByte a := by
  refine (State.store_ramByte s extBase _ a).trans ?_
  split
  · rw [List.getElem?_eq_none (by simp; omega)]; rfl
  · rfl

theorem State.parsedExt_inByte (hl : l ≤ 255) : (s.parsedExt p l).inByte = s.inByte := by
  funext i
  refine State.parsedExt_ramByte hl ?_
  simp only [extBase, inBase]
  omega

theorem State.parsedExt_rdPtr (h : p + 1 + l ≤ s.inLen.toNat) : (s.parsedExt p l).rdPtr.toNat = p + 1 + l :=
  Nat.mod_eq_of_lt (h.trans_lt s.inLen.isLt)

end

theorem byte_toNat_le (b : Byte) : b.toNat ≤ 255 := Nat.le_of_lt_succ b.isLt

/-- Settles O38: the length byte is there or not, and the extension it announces fits or not. -/
theorem parseExtResult : Obligations.ParseExtResult := by
  intro s p l hin hp hl
  have hl255 : l ≤ 255 := hl ▸ byte_toNat_le _
  refine ⟨fun hlt hfit => ?_, ?_⟩
  · refine ⟨_, exec_of_ok (i := .parseExt) (parseExtBody_eq (s := s.start) hin hp hl hlt hfit),
      Nat.mod_eq_of_lt (Nat.lt_succ_of_le hl255), State.parsedExt_rdPtr (s := s.start) hfit,
      fun j hj => State.parsedExt_extByte_of_lt (s := s.start) hj,
      fun j hj hj255 => State.parsedExt_extByte_of_ge (s := s.start) hj hj255,
      fun a ha => State.parsedExt_ramByte (s := s.start) hl255 ha, rfl⟩
  · rintro (h | ⟨hlt, hshort⟩)
    · have hend : s.rdPtr = s.inLen := BitVec.eq_of_toNat_eq (hp.trans h)
      exact exec_of_raised (i := .parseExt) (parseExtBody_missing (s := s.start) hin hend)
    · exact exec_of_raised (i := .parseExt) (parseExtBody_short (s := s.start) hin hp hl hlt hshort)

end Sys2Proof.Machine

/-! PROOFS. PARSE_TABLE (42 R220–R225): it stages every well-formed table block whole, and rejects the first bad entry
with the error of its first failing check. -/

namespace Sys2Proof.Machine

open Sys2Proof.Safety

/-! ### One round of the staging loop -/

theorem any_symbol_iff {es : List (Byte × Bits)} {b : Byte} : es.any (fun e => e.1 == b) ↔ b ∈ es.map Prod.fst := by
  simp

theorem any_prefixClash_iff {es : List (Byte × Bits)} {c : Bits} :
    es.any (fun e => prefixClash e.2 c) ↔ ∃ e ∈ es, e.2 <+: c ∨ c <+: e.2 := by
  simp [prefixClash]

section
variable {s : State} {k q n : Nat} {staged : List (Byte × Bits)}

/-- The entry has no symbol or no length byte. -/
theorem State.stageEntries_noHeader (h : s.inLen.toNat < q + 2) :
    s.stageEntries (k + 1) q staged = .error (.tableTruncated, s.inLen.toNat) :=
  if_pos h

variable (hn : (s.inByte (q + 1)).toNat = n)
include hn

/-- The entry's length byte is 0 (42 R223). -/
theorem State.stageEntries_lenZero (h2 : q + 2 ≤ s.inLen.toNat) (h0 : n = 0) :
    s.stageEntries (k + 1) q staged = .error (.codeLenZero, q + 1) := by
  rw [State.stageEntries, hn]
  rw [if_neg (Nat.not_lt.2 h2), if_pos h0]

variable (h0 : n ≠ 0)
include h0

/-- The entry's code bytes are cut off (42 R223). -/
theorem State.stageEntries_truncated (h2 : q + 2 ≤ s.inLen.toNat) (h : s.inLen.toNat < q + 2 + ceil8 n) :
    s.stageEntries (k + 1) q staged = .error (.tableTruncated, s.inLen.toNat) := by
  rw [State.stageEntries, hn]
  rw [if_neg (Nat.not_lt.2 h2), if_neg h0, if_pos h]

variable (hfit : q + 2 + ceil8 n ≤ s.inLen.toNat)
include hfit

/-- The entry is whole: what is left to check is its symbol and its code (42 R224). -/
theorem State.stageEntries_whole : s.stageEntries (k + 1) q staged =
    if staged.any (fun e => e.1 == s.inByte q) then .error (.dupSymbol, q)
    else if staged.any (fun e => prefixClash e.2 (s.entryCode q n)) then .error (.notPrefixFree, q)
    else s.stageEntries k (q + 2 + ceil8 n) (staged ++ [(s.inByte q, s.entryCode q n)]) := by
  rw [State.stageEntries, hn]
  rw [if_neg (by omega), if_neg h0, if_neg (Nat.not_lt.2 hfit)]

theorem State.stageEntries_dup (h : s.inByte q ∈ staged.map Prod.fst) :
    s.stageEntries (k + 1) q staged = .error (.dupSymbol, q) := by
  rw [State.stageEntries_whole hn h0 hfit, if_pos (any_symbol_iff.2 h)]

variable (hnew : s.inByte q ∉ staged.map Prod.fst)
include hnew

theorem State.stageEntries_clash (h : ∃ e ∈ staged, e.2 <+: s.entryCode q n ∨ s.entryCode q n <+: e.2) :
    s.stageEntries (k + 1) q staged = .error (.notPrefixFree, q) := by
  rw [State.stageEntries_whole hn h0 hfit, if_neg (mt any_symbol_iff.1 hnew), if_pos (any_prefixClash_iff.2 h)]

/-- A good entry is staged. -/
theorem State.stageEntries_stage (h : ¬ ∃ e ∈ staged, e.2 <+: s.entryCode q n ∨ s.entryCode q n <+: e.2) :
    s.stageEntries (k + 1) q staged =
      s.stageEntries k (q + 2 + ceil8 n) (staged ++ [(s.inByte q, s.entryCode q n)]) := by
  rw [State.stageEntries_whole hn h0 hfit, if_neg (mt any_symbol_iff.1 hnew), if_neg (mt any_prefixClash_iff.1 h)]

end

/-! ### Well-formed entries -/

theorem staged_of_entries {es : List (Byte × Bits)} (h : Entries es) : Staged es := ⟨h.lengths, h.once, h.prefixFree⟩

/-- Each of well-formed entries is good after the ones before it. -/
theorem Staged.next_good {es rest : List (Byte × Bits)} {e : Byte × Bits} (h : Staged (es ++ e :: rest)) :
    e.2.length ≠ 0 ∧ e.1 ∉ es.map Prod.fst ∧ ¬ ∃ f ∈ es, f.2 <+: e.2 ∨ e.2 <+: f.2 := by
  have hpos := (h.lengths e (by simp)).1
  have honce := h.once
  rw [List.map_append, List.map_cons, List.nodup_append] at honce
  obtain ⟨-, -, hdisj⟩ := honce
  obtain ⟨-, -, hfree⟩ := List.pairwise_append.1 h.prefixFree
  refine ⟨by omega, fun hmem => hdisj _ hmem _ List.mem_cons_self rfl, ?_⟩
  rintro ⟨f, hf, hclash⟩
  have hf := hfree f hf e List.mem_cons_self
  exact hclash.elim hf.1 hf.2

theorem entriesAt_le {s : State} {es : List (Byte × Bits)} {q q' : Nat} (h : entriesAt s q es q') : q ≤ q' := by
  induction es generalizing q with
  | nil => exact h.ge
  | cons e rest ih =>
    obtain ⟨-, -, -, hrest⟩ := h
    have := ih hrest
    omega

theorem State.inBytes_congr {s t : State} (h : t.inByte = s.inByte) : t.inBytes = s.inBytes := by
  funext p n
  rw [State.inBytes, h, State.inBytes]

/-- Where entries stand is a matter of IN_BUF. -/
theorem entriesAt_congr {s t : State} (hbytes : t.inByte = s.inByte) {es : List (Byte × Bits)} {q q' : Nat}
    (h : entriesAt s q es q') : entriesAt t q es q' := by
  induction es generalizing q with
  | nil => exact h
  | cons e rest ih =>
    obtain ⟨hsym, hlen, hcode, hrest⟩ := h
    refine ⟨?_, ?_, ?_, ih hrest⟩
    · rw [hbytes]; exact hsym
    · rw [hbytes]; exact hlen
    · rw [State.inBytes_congr hbytes]; exact hcode

theorem entriesAt_start {s : State} {es : List (Byte × Bits)} {q q' : Nat} (h : entriesAt s q es q') :
    entriesAt s.start q es q' :=
  entriesAt_congr (s := s) (t := s.start) rfl h

/-- The staging loop stages well-formed entries one by one, whatever their padding bits (42 R220, R221). -/
theorem State.stageEntries_entriesAt {s : State} {es staged : List (Byte × Bits)} {q q' : Nat} (k : Nat)
    (hst : Staged (staged ++ es)) (h : entriesAt s q es q') (hfit : q' ≤ s.inLen.toNat) :
    s.stageEntries (es.length + k) q staged = s.stageEntries k q' (staged ++ es) := by
  induction es generalizing q staged with
  | nil => rw [show q' = q from h, List.length_nil, Nat.zero_add, List.append_nil]
  | cons e rest ih =>
    obtain ⟨hsym, hlen, hcode, hrest⟩ := h
    obtain ⟨h0, hnew, hfree⟩ := hst.next_good
    have hle := entriesAt_le hrest
    have hcode' : s.entryCode q e.2.length = e.2 := hcode
    have hentry : (s.inByte q, s.entryCode q e.2.length) = e := Prod.ext hsym hcode'
    calc s.stageEntries ((e :: rest).length + k) q staged
        = s.stageEntries (rest.length + k + 1) q staged := by rw [List.length_cons, Nat.add_right_comm]
      _ = s.stageEntries (rest.length + k) (q + 2 + ceil8 e.2.length) (staged ++ [e]) := by
          rw [State.stageEntries_stage hlen h0 (by omega) (by rwa [hsym]) (by rwa [hcode']), hentry]
      _ = s.stageEntries k q' (staged ++ e :: rest) := by
          rw [List.append_cons] at hst
          rw [List.append_cons staged e rest]
          exact ih hst hrest

/-! ### PARSE_TABLE -/

/-- The state PARSE_TABLE leaves when it has staged `es` and read up to `q` (42 R220, R222). -/
def State.parsedTable (s : State) (es : List (Byte × Bits)) (q : Nat) : State :=
  { s.setTable (CodeTable.ofEntries es) with
    nsym := BitVec.ofNat 9 es.length
    maxLen := BitVec.ofNat 8 ((es.map fun e => e.2.length).foldr max 0)
    rdPtr := BitVec.ofNat 32 q
    tableValid := true
    treeValid := false }

section
variable {s : State} {es : List (Byte × Bits)} {q : Nat} (hes : Entries es)
include hes

theorem State.parsedTable_nsym : (s.parsedTable es q).nsym.toNat = es.length :=
  Nat.mod_eq_of_lt (hes.count.2.trans_lt (by decide))

theorem State.parsedTable_table : Table (s.parsedTable es q) :=
  table_of_entries rfl hes (State.parsedTable_nsym hes) (longest_entries rfl hes rfl)

theorem State.parsedTable_entriesOf : entriesOf (s.parsedTable es q) = es := by
  rw [entriesOf, orderedSymbols_eq rfl hes (State.parsedTable_nsym hes), List.map_map]
  calc es.map ((fun b => (b, (s.parsedTable es q).code b)) ∘ Prod.fst)
      = es.map id := List.map_congr_left fun e he => Prod.ext rfl (code_entry rfl hes he)
    _ = es := List.map_id es

end

section
variable {s : State} {p : Nat} (hin : s.inLen.toNat ≤ s.params.inCap)
include hin

/-- The count byte is missing (42 R220). -/
theorem parseTableBody_missing (h : s.rdPtr = s.inLen) : parseTableBody s = .raised .tableTruncated s.rdPtr s := by
  rw [parseTableBody, State.checkInLen_pass hin, State.checkRdPtr_pass (h ▸ Nat.le_refl _)]
  exact if_pos h

variable (hp : s.rdPtr.toNat = p) (hlt : p < s.inLen.toNat)
include hp hlt

/-- There is a count byte, at RD_PTR (42 R220). -/
theorem parseTableBody_eq_parseTableFrom : parseTableBody s = s.parseTableFrom p (s.inByte p).toNat := by
  subst hp
  have hne : s.rdPtr ≠ s.inLen := fun h => Nat.ne_of_lt hlt (congrArg BitVec.toNat h)
  rw [parseTableBody, State.checkInLen_pass hin, State.checkRdPtr_pass hlt.le]
  exact if_neg hne

/-- PARSE_TABLE fails as its staging loop does. -/
theorem parseTableBody_raised {e : ErrKind} {info : Nat}
    (h : s.stageEntries ((s.inByte p).toNat + 1) (p + 1) [] = .error (e, info)) :
    parseTableBody s = .raised e (BitVec.ofNat 32 info) s := by
  rw [parseTableBody_eq_parseTableFrom hin hp hlt, State.parseTableFrom, h]

/-- PARSE_TABLE of a well-formed table block leaves its table (42 R220–R222). -/
theorem parseTableBody_eq {es : List (Byte × Bits)} {q : Nat} (hes : Entries es)
    (hcount : (s.inByte p).toNat = es.length - 1) (hat : entriesAt s (p + 1) es q) (hq : q ≤ s.inLen.toNat) :
    parseTableBody s = .ok (s.parsedTable es q) := by
  have hlen : (s.inByte p).toNat + 1 = es.length := by have := hes.count.1; omega
  have hstage : s.stageEntries ((s.inByte p).toNat + 1) (p + 1) [] = .ok (es, q) := by
    rw [hlen]
    exact State.stageEntries_entriesAt 0 (staged := []) (staged_of_entries hes) hat hq
  rw [parseTableBody_eq_parseTableFrom hin hp hlt, State.parseTableFrom, hstage, hlen]
  rfl

end

/-- Settles O39: the staging loop stages the whole block, and its entries are a code table. -/
theorem parseTableResult : Obligations.ParseTableResult := by
  intro s es p q hin hp hlt hes hcount hat hq
  have hbody := parseTableBody_eq (s := s.start) hin hp hlt hes hcount (entriesAt_start hat) hq
  exact ⟨_, exec_of_ok (i := .parseTable) hbody,
    tableOk_congr (fun _ => State.parsedTable_table hes) (State.finish_coding _) rfl,
    (entriesOf_congr (State.finish_coding _)).trans (State.parsedTable_entriesOf hes),
    fun b => (codeLenOf_ne_zero_iff rfl hes b).1, State.parsedTable_nsym (s := s.start) (q := q) hes,
    Nat.mod_eq_of_lt (hq.trans_lt s.inLen.isLt), rfl⟩

/-- Settles O40: the staging loop stages the good entries, and fails at the next one. -/
theorem parseTableRejects : Obligations.ParseTableRejects := by
  refine ⟨fun s hin hend => exec_of_raised (i := .parseTable) (parseTableBody_missing (s := s.start) hin hend), ?_⟩
  intro s es p q n hin hp hlt hes hcount hat hq hn
  have hst : Staged es := hes.elim (fun h => h ▸ .nil) staged_of_entries
  have hreach : s.start.stageEntries ((s.inByte p).toNat + 1) (p + 1) [] =
      s.start.stageEntries ((s.inByte p).toNat - es.length + 1) q es := by
    rw [show (s.inByte p).toNat + 1 = es.length + ((s.inByte p).toNat - es.length + 1) by omega]
    exact State.stageEntries_entriesAt (s := s.start) _ (staged := []) hst (entriesAt_start hat) hq
  have reject {e : ErrKind} {info : Nat}
      (h : s.start.stageEntries ((s.inByte p).toNat - es.length + 1) q es = .error (e, info)) :
      exec .parseTable s = .next (afterError s e.code e.sub (BitVec.ofNat 32 info)) :=
    exec_of_raised (i := .parseTable) (parseTableBody_raised (s := s.start) hin hp hlt (hreach.trans h))
  have hinfo : BitVec.ofNat 32 s.inLen.toNat = s.inLen := by rw [BitVec.ofNat_toNat, BitVec.setWidth_eq]
  refine ⟨fun h => ?_, fun h2 h0 => reject (State.stageEntries_lenZero hn h2 h0), fun h2 h0 h => ?_,
    fun h0 hfit h => reject (State.stageEntries_dup hn h0 hfit h),
    fun h0 hfit hnew h => reject (State.stageEntries_clash hn h0 hfit hnew h)⟩
  · rw [← hinfo]
    exact reject (State.stageEntries_noHeader (s := s.start) h)
  · rw [← hinfo]
    exact reject (State.stageEntries_truncated (s := s.start) hn h0 h2 h)

end Sys2Proof.Machine

/-! PROOFS. The whole-run commands as runs of their primitives (42 R230, R236): no body reads the phase, so a primitive
run by COMPRESS or DECOMPRESS makes what the command of its own makes. -/

namespace Sys2Proof.Machine

open Sys2Proof.Safety

/-! ### No primitive reads the phase -/

/-- The state with no command running. -/
def State.idled (s : State) : State := { s with phase := .idle }

theorem State.idled_inLen (s : State) : s.idled.inLen = s.inLen := rfl

theorem State.idled_outLen (s : State) : s.idled.outLen = s.outLen := rfl

theorem State.idled_inBytes (s : State) : s.idled.inBytes = s.inBytes := rfl

/-- An end of a body, with no command running in the state it leaves. -/
def Ran.idled : Ran → Ran
  | .ok s => .ok s.idled
  | .raised e info s => .raised e info s.idled

/-- The end of a command sets the phase. -/
@[simp] theorem Ran.complete_idled (r : Ran) : r.idled.complete = r.complete := by
  cases r <;> rfl

theorem Ran.idled_andThen {r : Ran} {f : State → Ran} (hf : ∀ s, f s.idled = (f s).idled) :
    r.idled.andThen f = (r.andThen f).idled := by
  cases r with
  | ok s => exact hf s
  | raised e info s => rfl

section
variable {s : State} {go go' : State → Ran} (h : go' s.idled = (go s).idled)
include h

theorem State.checkInLen_idled : s.idled.checkInLen go' = (s.checkInLen go).idled := by
  unfold State.checkInLen
  rw [apply_ite Ran.idled, h]
  rfl

theorem State.checkRdPtr_idled : s.idled.checkRdPtr go' = (s.checkRdPtr go).idled := by
  unfold State.checkRdPtr
  rw [apply_ite Ran.idled, h]
  rfl

theorem State.checkTree_idled : s.idled.checkTree go' = (s.checkTree go).idled := by
  unfold State.checkTree
  rw [apply_ite Ran.idled, h]
  rfl

theorem State.checkTable_idled : s.idled.checkTable go' = (s.checkTable go).idled := by
  unfold State.checkTable
  rw [apply_ite Ran.idled, h]
  rfl

theorem State.checkRoom_idled {size : Nat} : s.idled.checkRoom size go' = (s.checkRoom size go).idled := by
  unfold State.checkRoom
  rw [apply_ite Ran.idled, h]
  rfl

end

theorem countBody_idled (s : State) : countBody s.idled = (countBody s).idled :=
  State.checkInLen_idled rfl

theorem gencodeBody_idled (s : State) : gencodeBody s.idled = (gencodeBody s).idled :=
  State.checkTree_idled rfl

theorem emitExtBody_idled (s : State) : emitExtBody s.idled = (emitExtBody s).idled :=
  State.checkRoom_idled rfl

theorem emitTableBody_idled (s : State) : emitTableBody s.idled = (emitTableBody s).idled :=
  State.checkTable_idled (State.checkRoom_idled rfl)

theorem buildBody_idled (s : State) : buildBody s.idled = (buildBody s).idled := by
  unfold buildBody
  rw [apply_ite Ran.idled, apply_ite Ran.idled]
  rfl

theorem packBody_idled (s : State) : packBody s.idled = (packBody s).idled := by
  refine State.checkInLen_idled (State.checkTable_idled ?_)
  have hunknown : s.idled.firstUnknown (s.idled.inBytes 0 s.idled.inLen.toNat) =
      s.firstUnknown (s.inBytes 0 s.inLen.toNat) := rfl
  dsimp only
  rw [hunknown]
  cases s.firstUnknown (s.inBytes 0 s.inLen.toNat) with
  | some i => rfl
  | none => exact State.checkRoom_idled (by rfl)

theorem parseExtBody_idled (s : State) : parseExtBody s.idled = (parseExtBody s).idled := by
  refine State.checkInLen_idled (State.checkRdPtr_idled ?_)
  unfold State.parseExtFrom
  rw [apply_ite Ran.idled, apply_ite Ran.idled]
  rfl

theorem State.stageEntries_idled (s : State) (k q : Nat) (staged : List (Byte × Bits)) :
    s.idled.stageEntries k q staged = s.stageEntries k q staged := by
  induction k generalizing q staged with
  | zero => rfl
  | succ k ih =>
    simp only [State.stageEntries, ih]
    rfl

theorem parseTableBody_idled (s : State) : parseTableBody s.idled = (parseTableBody s).idled := by
  refine State.checkInLen_idled (State.checkRdPtr_idled ?_)
  have hfrom (p c : Nat) : s.idled.parseTableFrom p c = (s.parseTableFrom p c).idled := by
    unfold State.parseTableFrom
    rw [State.stageEntries_idled]
    cases s.stageEntries (c + 1) (p + 1) [] <;> rfl
  rw [hfrom, apply_ite Ran.idled]
  rfl

theorem State.decodeBits_idled (s : State) (bits : Bits) (t o : Nat) (acc : Bits) :
    s.idled.decodeBits bits t o acc = s.decodeBits bits t o acc := by
  have hlookup : s.idled.lookup = s.lookup := rfl
  induction bits generalizing t o acc with
  | nil => rfl
  | cons b rest ih =>
    simp only [State.decodeBits, hlookup, ih]
    rfl

theorem State.unpackFrom_idled (s : State) (p k : Nat) : s.idled.unpackFrom p k = (s.unpackFrom p k).idled := by
  unfold State.unpackFrom
  simp only [apply_ite Ran.idled, State.decodeBits_idled, State.idled_inLen, State.idled_outLen, State.idled_inBytes]
  obtain ⟨syms, _ | ⟨e, info⟩⟩ := s.decodeBits _ 0 s.outLen.toNat []
  · rfl
  · rfl

theorem unpackBody_idled (s : State) : unpackBody s.idled = (unpackBody s).idled := by
  refine State.checkInLen_idled (State.checkRdPtr_idled (State.checkTable_idled ?_))
  rw [State.unpackFrom_idled, apply_ite Ran.idled]
  rfl

/-- No primitive reads the phase, and none sets it. -/
theorem body_idled (i : Instr) (s : State) (hi : i ∉ [Instr.compress, .decompress]) :
    body i s.idled = (body i s).idled := by
  cases i with
  | nop | clear => rfl
  | count => exact countBody_idled s
  | build => exact buildBody_idled s
  | gencode => exact gencodeBody_idled s
  | emitExt => exact emitExtBody_idled s
  | emitTable => exact emitTableBody_idled s
  | pack => exact packBody_idled s
  | parseExt => exact parseExtBody_idled s
  | parseTable => exact parseTableBody_idled s
  | unpack => exact unpackBody_idled s
  | compress | decompress => exact absurd (by decide) hi

/-! ### A sequence of primitives -/

/-- The bodies of commands one after another, up to the first that fails. -/
def bodies : List Instr → State → Ran
  | [], s => .ok s
  | i :: rest, s => (body i s).andThen (bodies rest)

theorem Ran.andThen_ok_right (r : Ran) : r.andThen .ok = r := by
  cases r <;> rfl

theorem Ran.andThen_congr {r : Ran} {f g : State → Ran} (h : ∀ t, r = .ok t → f t = g t) :
    r.andThen f = r.andThen g := by
  cases r with
  | ok t => exact h t rfl
  | raised e info t => rfl

theorem bodies_singleton (i : Instr) : bodies [i] = body i :=
  funext fun s => (body i s).andThen_ok_right

theorem bodies_idled {is : List Instr} (his : ∀ i ∈ is, i ∉ [Instr.compress, .decompress]) (s : State) :
    bodies is s.idled = (bodies is s).idled := by
  induction is generalizing s with
  | nil => rfl
  | cons i rest ih =>
    rw [bodies, body_idled i s (his i List.mem_cons_self)]
    exact Ran.idled_andThen fun t => ih (fun j hj => his j (List.mem_cons_of_mem i hj)) t

/-- A body that ends well leaves ERROR as its start set it, 0. -/
theorem Framed.error_eq_false {s t : State} (h : Framed s.start t) : t.error = false :=
  congrArg Control.error h.control

/-- The next command starts from what a body left, but for the phase: the report of a start is still empty (60 R260). -/
theorem Framed.finish_start {s t : State} (h : Framed s.start t) : t.finish.start = t.idled := by
  have hcontrol := h.control
  cases t
  simp only [State.control, Control.mk.injEq] at hcontrol
  obtain ⟨-, -, hdone, herror, -, hcode, hsub, hinfo, -⟩ := hcontrol
  simp only [hdone, herror, hcode, hsub, hinfo]
  rfl

/-- Commands run one after another end as their bodies run in sequence. -/
theorem runs_bodies {i : Instr} {rest : List Instr} (his : ∀ j ∈ i :: rest, j ∉ [Instr.compress, .decompress])
    (s : State) : Runs (i :: rest) s (bodies (i :: rest) s.start).complete := by
  induction rest generalizing i s with
  | nil =>
    rw [runs_cons, bodies_singleton, runs_nil]
    split <;> rfl
  | cons j rest ih =>
    have hframed := body_framed i s.start
    have hrest : ∀ k ∈ j :: rest, k ∉ [Instr.compress, .decompress] := fun k hk => his k (List.mem_cons_of_mem i hk)
    rw [runs_cons, bodies]
    cases hr : body i s.start with
    | raised e info t =>
      have herror : (Ran.raised e info t).complete.error = true := rfl
      rw [if_pos herror, Ran.andThen_raised]
    | ok t =>
      rw [hr] at hframed
      have herror : (Ran.ok t).complete.error ≠ true := fun h => Bool.false_ne_true (hframed.error_eq_false ▸ h)
      have hruns := ih hrest t.finish
      rw [hframed.finish_start, bodies_idled hrest, Ran.complete_idled] at hruns
      rw [if_neg herror, Ran.andThen_ok]
      exact hruns

/-! ### The whole runs as sequences -/

/-- The primitives of COMPRESS (42 R230). -/
theorem compressSteps_eq_bodies (s : State) : compressSteps s =
    bodies ([.count, .emitExt] ++ if s.inLen = 0 then [] else [.build, .gencode, .emitTable, .pack])
      s.compressStart := by
  refine Ran.andThen_congr fun s1 h1 => Ran.andThen_congr fun s2 h2 => ?_
  have hf1 : Framed s.compressStart s1 := by
    have h := countBody_framed s.compressStart
    rwa [show countBody s.compressStart = _ from h1] at h
  have hf2 : Framed s1 s2 := by
    have h := Ran.Leaves.framed (emitExtBody_leaves s1)
    rwa [show emitExtBody s1 = _ from h2] at h
  have hlen : s2.inLen = s.inLen := congrArg Control.inLen (hf1.trans hf2).control
  show (if s2.inLen.toNat > 0 then _ else _) = bodies (if s.inLen = 0 then [] else _) s2
  rw [hlen]
  by_cases h0 : s.inLen = 0
  · rw [if_pos h0, if_neg (by simp [h0])]
    rfl
  · have hpos : s.inLen.toNat > 0 := Nat.pos_of_ne_zero fun h => h0 (BitVec.eq_of_toNat_eq h)
    rw [if_neg h0, if_pos hpos]
    simp only [bodies, Ran.andThen_ok_right, body]

/-- DECOMPRESS before its first primitive (42 R236). -/
def State.decompressStart (s : State) : State :=
  { s with outLen := 0, rdPtr := 0, treeValid := false, tableValid := false }

/-- DECOMPRESS past the extension block (42 R236, R238). -/
def decompressRest (s : State) : Ran :=
  if s.rdPtr.toNat < s.inLen.toNat then bodies [.parseTable, .unpack] s else .ok { s with nsym := 0, maxLen := 0 }

theorem decompressSteps_eq (s : State) :
    decompressSteps s = (parseExtBody s.decompressStart).andThen decompressRest := by
  refine Ran.andThen_congr fun t _ => ?_
  rw [decompressRest, bodies, bodies_singleton]
  rfl

/-- Where PARSE_EXT ends well, the extension ends within IN_LEN. -/
theorem parseExtBody_ok {s t : State} (h : parseExtBody s = .ok t) : t.rdPtr.toNat ≤ t.inLen.toNat := by
  unfold parseExtBody State.checkInLen State.checkRdPtr State.parseExtFrom at h
  dsimp only at h
  split at h
  · cases h
  split at h
  · cases h
  split at h
  · cases h
  split at h
  · cases h
  next hfit =>
    cases h
    exact (State.parsedExt_rdPtr (Nat.not_lt.1 hfit)).le.trans (Nat.not_lt.1 hfit)

/-! ### Failures -/

/-- The end of a whole run: a failure drops the output (42 R233). -/
def State.dropFailed (s : State) : State := if s.error then { s with outLen := 0 } else s

theorem State.dropFailed_outLen {s : State} (h : s.dropFailed.error = true) : s.dropFailed.outLen = 0 := by
  unfold State.dropFailed at h ⊢
  split
  · rfl
  · next hs =>
    rw [if_neg hs] at h
    exact absurd h hs

/-- A whole-run command ends as its steps do, but for OUT_LEN where they fail. -/
theorem complete_dropOutput {s : State} {r : Ran} (h : r.Leaves (Framed s.start)) :
    r.dropOutput.complete = r.complete.dropFailed := by
  cases r with
  | ok t =>
    have herror : t.finish.error ≠ true := fun ht => Bool.false_ne_true (h.error_eq_false ▸ ht)
    exact (if_neg herror).symm
  | raised e info t => rfl

theorem exec_compress_eq_dropFailed (s : State) :
    exec .compress s = .next (s.start.checkInLen compressSteps).complete.dropFailed := by
  rw [exec_eq_body, ← complete_dropOutput (State.checkInLen_leaves (.refl _) (compressSteps_framed s.start))]
  rfl

theorem exec_decompress_eq_dropFailed (s : State) :
    exec .decompress s = .next (s.start.checkInLen decompressSteps).complete.dropFailed := by
  rw [exec_eq_body, ← complete_dropOutput (State.checkInLen_leaves (.refl _) (decompressSteps_framed s.start))]
  rfl

/-- DECOMPRESS runs PARSE_EXT, and past a container that goes on PARSE_TABLE and UNPACK (42 R236, R238). -/
theorem decompressSteps_complete (s : State) :
    let u := (parseExtBody s.decompressStart.start).complete
    if u.error then (decompressSteps s.start).complete = u
    else if u.rdPtr = s.inLen then (decompressSteps s.start).complete = { u with nsym := 0, maxLen := 0 }
    else Runs [.parseTable, .unpack] u (decompressSteps s.start).complete := by
  have hframed := body_framed .parseExt s.decompressStart.start
  have hsteps : decompressSteps s.start = (parseExtBody s.decompressStart.start).andThen decompressRest :=
    decompressSteps_eq s.start
  rw [hsteps]
  cases hr : parseExtBody s.decompressStart.start with
  | raised e info t => rfl
  | ok t =>
    rw [body, hr] at hframed
    have herror : (Ran.ok t).complete.error ≠ true := fun h => Bool.false_ne_true (hframed.error_eq_false ▸ h)
    have hlen : t.inLen = s.inLen := congrArg Control.inLen hframed.control
    have hle := parseExtBody_ok hr
    dsimp only
    rw [if_neg herror, Ran.andThen_ok, decompressRest]
    split
    · next hend =>
      have hend : t.rdPtr = s.inLen := hend
      rw [if_neg (by rw [hend, hlen]; exact Nat.lt_irrefl _)]
      rfl
    · next hmore =>
      have hne : t.rdPtr.toNat ≠ t.inLen.toNat := fun h => hmore ((BitVec.eq_of_toNat_eq h).trans hlen)
      have hprimitive : ∀ j ∈ [Instr.parseTable, .unpack], j ∉ [Instr.compress, .decompress] := by decide
      have hruns := runs_bodies hprimitive t.finish
      rw [hframed.finish_start, bodies_idled hprimitive, Ran.complete_idled] at hruns
      rw [if_pos (by omega)]
      exact hruns

/-- Settles O50: the steps of a whole run are the bodies of its primitives in sequence, and a failure drops the
output. -/
theorem wholeRunFailureDropsOutput : Obligations.WholeRunFailureDropsOutput := by
  refine ⟨fun s hin => ?_, fun s hin => ?_, ?_⟩
  · have hexec := exec_compress_eq_dropFailed s
    rw [State.checkInLen_pass (s := s.start) hin, compressSteps_eq_bodies] at hexec
    refine ⟨_, runs_bodies ?_ s.compressStart, hexec⟩
    split <;> decide
  · have hexec := exec_decompress_eq_dropFailed s
    rw [State.checkInLen_pass (s := s.start) hin] at hexec
    exact ⟨_, _, exec_eq_body .parseExt s.decompressStart, decompressSteps_complete s, hexec⟩
  · rintro i s t (rfl | rfl) h herror
    · obtain rfl := Host.Outcome.next.inj ((exec_compress_eq_dropFailed s).symm.trans h)
      exact State.dropFailed_outLen herror
    · obtain rfl := Host.Outcome.next.inj ((exec_decompress_eq_dropFailed s).symm.trans h)
      exact State.dropFailed_outLen herror

end Sys2Proof.Machine

/-! PROOFS. COMPRESS of an empty input and DECOMPRESS (42 R232–R240): the states they leave, step by step. -/

namespace Sys2Proof.Machine

open Sys2Proof.Safety

/-! ### COMPRESS of an empty input -/

theorem State.counted_freqOf_of_empty {s : State} (h : s.inLen = 0) (b : Byte) : s.counted.freqOf b = 0 := by
  apply BitVec.eq_of_toNat_eq
  rw [s.counted_freqOf, h]
  rfl

theorem State.counted_nsym_of_empty {s : State} (h : s.inLen = 0) : s.counted.nsym = 0 := by
  apply BitVec.eq_of_toNat_eq
  have hnone : symbols.filter (fun b => s.counted.freqOf b != 0) = [] :=
    List.filter_eq_nil_iff.2 fun b _ => by simp [State.counted_freqOf_of_empty h b]
  rw [s.counted_nsym, presentCount, hnone]
  rfl

/-- The state COMPRESS of an empty input leaves (42 R232). -/
def State.extOnly (s : State) : State := s.compressStart.counted.emit s.extBlock

theorem State.extOnly_outByte (s : State) :
    s.extOnly.outByte 0 = s.extLen ∧ ∀ j, j < s.extLen.toNat → s.extOnly.outByte (1 + j) = s.extByte j := by
  have h := s.compressStart.counted.emit_extBlock_outByte
  rwa [show s.compressStart.counted.outLen.toNat = 0 from rfl, Nat.zero_add] at h

theorem State.extOnly_outLen (s : State) : s.extOnly.outLen.toNat = 1 + s.extLen.toNat := by
  have hl := byte_toNat_le s.extLen
  show (0 + s.extBlock.length) % 2 ^ 32 = 1 + s.extLen.toNat
  rw [Nat.zero_add, s.extBlock_length]
  exact Nat.mod_eq_of_lt (by omega)

theorem State.extOnly_ramByte (s : State) {a : Nat} (ha : ¬ (outBase ≤ a ∧ a < outBase + 1 + s.extLen.toNat)) :
    s.extOnly.ramByte a = s.ramByte a := by
  refine (s.compressStart.counted.emit_outputStored s.extBlock).others a ?_
  rwa [s.extBlock_length, ← Nat.add_assoc]

/-- What COMPRESS of an empty input leaves unchanged. -/
theorem State.extOnly_frame {s : State} (h : s.inLen = 0) : s.extOnly =
    { s with
      freq := s.extOnly.freq, nsym := 0, treeValid := false, tableValid := false, outLen := s.extOnly.outLen
      mem := s.extOnly.mem } := by
  have hframe : s.extOnly =
    { s with
      freq := s.extOnly.freq, nsym := s.compressStart.counted.nsym, treeValid := false, tableValid := false
      outLen := s.extOnly.outLen, mem := s.extOnly.mem } := rfl
  rwa [State.counted_nsym_of_empty (s := s.compressStart) h] at hframe

/-- COMPRESS of an empty input ends after its extension block (42 R232). -/
theorem compressSteps_empty {s : State} (h : s.inLen = 0) (hroom : 1 + s.extLen.toNat ≤ s.params.outCap) :
    compressSteps s = .ok s.extOnly := by
  have hin : s.inLen.toNat ≤ s.params.inCap := by rw [h]; exact Nat.zero_le _
  have hcount : countBody s.compressStart = .ok s.compressStart.counted := countBody_eq hin
  have hlen : s.compressStart.counted.outLen.toNat + (1 + s.extLen.toNat) = 1 + s.extLen.toNat := Nat.zero_add _
  rw [compressSteps_eq_bodies, if_pos h, List.append_nil, bodies, bodies_singleton, body, hcount, Ran.andThen_ok]
  exact emitExtBody_eq (s := s.compressStart.counted) (hlen.trans_le hroom)

/-- Settles O45: nothing is counted, and the extension block is emitted. -/
theorem compressEmptyInput : Obligations.CompressEmptyInput := by
  intro s _ h hroom
  have hbody : body .compress s.start = .ok s.start.extOnly := by
    have hin : s.start.inLen.toNat ≤ s.start.params.inCap := by rw [State.start_inLen, h]; exact Nat.zero_le _
    rw [body, compressBody, State.checkInLen_pass hin, compressSteps_empty (s := s.start) h hroom, Ran.dropOutput_ok]
  obtain ⟨hcount, hext⟩ := s.start.extOnly_outByte
  exact ⟨_, exec_of_ok hbody, hcount, hext, s.start.extOnly_outLen, State.counted_freqOf_of_empty h,
    fun a ha => s.start.extOnly_ramByte ha, congrArg State.finish (State.extOnly_frame (s := s.start) h)⟩

/-! ### DECOMPRESS past the extension block -/

/-- The machine past the extension block of a container (42 R236): PARSE_EXT of DECOMPRESS has run. -/
def State.extended (s : State) : State := s.decompressStart.parsedExt 0 (s.inByte 0).toNat

theorem State.extended_extByte_of_lt (s : State) {j : Nat} (hj : j < (s.inByte 0).toNat) :
    s.extended.extByte j = s.inByte (1 + j) :=
  State.parsedExt_extByte_of_lt (s := s.decompressStart) hj

theorem State.extended_extByte_of_ge (s : State) {j : Nat} (hj : (s.inByte 0).toNat ≤ j) (hj255 : j < 255) :
    s.extended.extByte j = 0 :=
  State.parsedExt_extByte_of_ge (s := s.decompressStart) hj hj255

theorem State.extended_ramByte (s : State) {a : Nat} (ha : ¬ (extBase ≤ a ∧ a < extBase + 255)) :
    s.extended.ramByte a = s.ramByte a :=
  State.parsedExt_ramByte (s := s.decompressStart) (byte_toNat_le _) ha

theorem State.extended_inByte (s : State) : s.extended.inByte = s.inByte :=
  State.parsedExt_inByte (s := s.decompressStart) (byte_toNat_le _)

theorem State.extended_extLen (s : State) : s.extended.extLen = s.inByte 0 := by
  show BitVec.ofNat 8 (s.inByte 0).toNat = s.inByte 0
  rw [BitVec.ofNat_toNat, BitVec.setWidth_eq]

section
variable {s : State} (hfit : 1 + (s.inByte 0).toNat ≤ s.inLen.toNat)
include hfit

theorem State.extended_rdPtr : s.extended.rdPtr.toNat = 1 + (s.inByte 0).toNat :=
  (State.parsedExt_rdPtr (s := s.decompressStart) (show 0 + 1 + _ ≤ s.inLen.toNat by omega)).trans (by omega)

/-- DECOMPRESS reads the extension block at offset 0, where it is whole (42 R236). -/
theorem decompressSteps_eq_rest (hin : s.inLen.toNat ≤ s.params.inCap) :
    decompressSteps s = decompressRest s.extended := by
  have hext : parseExtBody s.decompressStart = .ok s.extended :=
    parseExtBody_eq (s := s.decompressStart) (p := 0) hin rfl rfl (show 0 < s.inLen.toNat by omega)
      (show 0 + 1 + _ ≤ s.inLen.toNat by omega)
  rw [decompressSteps_eq, hext, Ran.andThen_ok]

end

theorem body_decompress_eq {s t : State} (hin : s.inLen.toNat ≤ s.params.inCap) (h : decompressSteps s.start = .ok t) :
    body .decompress s.start = .ok t := by
  rw [body, decompressBody, State.checkInLen_pass (s := s.start) hin, h, Ran.dropOutput_ok]

/-- Settles O47: RD_PTR reaches IN_LEN with the extension. -/
theorem decompressEmptyFile : Obligations.DecompressEmptyFile := by
  intro s hin hend
  have hptr : s.start.extended.rdPtr = s.inLen :=
    BitVec.eq_of_toNat_eq ((State.extended_rdPtr (s := s.start) hend.ge).trans hend.symm)
  have hsteps : decompressSteps s.start = .ok { s.start.extended with nsym := 0, maxLen := 0 } :=
    (decompressSteps_eq_rest (s := s.start) hend.ge hin).trans (if_neg (hptr ▸ Nat.lt_irrefl _))
  have hframe : State.finish { s.start.extended with nsym := 0, maxLen := 0 } =
      { afterSuccess s with
        outLen := 0, rdPtr := s.start.extended.rdPtr, treeValid := false, tableValid := false, nsym := 0, maxLen := 0
        extLen := s.start.extended.extLen, mem := s.start.extended.mem } := rfl
  rw [hptr] at hframe
  exact ⟨_, exec_of_ok (body_decompress_eq hin hsteps), s.start.extended_extLen,
    fun j hj => s.start.extended_extByte_of_lt hj, fun j hj hj255 => s.start.extended_extByte_of_ge hj hj255,
    fun a ha => s.start.extended_ramByte ha, hframe⟩

/-! ### DECOMPRESS of a whole container -/

/-- In the entries of the code table a symbol is found with its code. -/
theorem find_entriesOf {s : State} {b : Byte} (hb : b ∈ s.orderedSymbols) :
    (((entriesOf s).find? fun e => e.1 == b).map Prod.snd).getD [] = s.code b := by
  cases hf : (entriesOf s).find? fun e => e.1 == b with
  | none =>
    rw [List.find?_eq_none] at hf
    exact absurd (beq_self_eq_true b) (hf (b, s.code b) (List.mem_map_of_mem hb))
  | some e =>
    obtain ⟨c, -, rfl⟩ := List.mem_map.1 (List.mem_of_find?_eq_some hf)
    have hc : c = b := by simpa using List.find?_some hf
    rw [hc]
    rfl

theorem map_fst_entriesOf (s : State) : (entriesOf s).map Prod.fst = s.orderedSymbols := by
  rw [entriesOf, List.map_map]
  exact List.map_id _

theorem payloadBits_congr {s t : State} (hbytes : t.inByte = s.inByte) (hlen : t.inLen = s.inLen) (p : Nat) :
    payloadBits t p = payloadBits s p := by
  rw [payloadBits, hbytes, hlen, payloadBits]

/-- Where a payload block stands is a matter of IN_BUF and IN_LEN. -/
theorem payloadAt_congr {s t : State} (hbytes : t.inByte = s.inByte) (hlen : t.inLen = s.inLen) {p : Nat} {c : Bits}
    (h : PayloadAt s p c) : PayloadAt t p c where
  some := by rw [hlen]; exact h.some
  header := by rw [hbytes]; exact h.header
  data := by rw [hbytes, hlen]; exact h.data
  bits := by
    rw [payloadBits_congr hbytes hlen, hlen, State.inBytes_congr hbytes]
    exact h.bits

/-- UNPACK of a payload block of whole codes stores their symbols (41 R190, R192). -/
theorem unpackBody_codes {s : State} {p : Nat} {syms : List Byte} (hin : s.inLen.toNat ≤ s.params.inCap)
    (hv : s.tableValid = true) (ht : Table s) (hp : s.rdPtr.toNat = p) (hcoded : ∀ b ∈ syms, s.codeLenOf b ≠ 0)
    (hpay : PayloadAt s p (syms.flatMap s.code)) (hroom : s.outLen.toNat + syms.length ≤ s.params.outCap) :
    unpackBody s = .ok (s.unpacked p syms) := by
  have hloop := State.decodeBits_codes ht syms hcoded (more := []) (t := 0) (stop := none) hroom rfl
  rw [List.append_nil] at hloop
  exact (unpackBody_eq hin hv hp hpay).trans (congrArg (s.unpackEnd p) hloop)

/-- The bytes UNPACK stores stand past EXT. -/
theorem State.unpacked_extByte (s : State) (p : Nat) (syms : List Byte) (j : Nat) (hj : j < 255) :
    (s.unpacked p syms).extByte j = s.extByte j := by
  refine (s.store_outputStored syms).others _ ?_
  simp only [extBase, outBase]
  omega

section
variable {s : State} {es : List (Byte × Bits)} {syms : List Byte} {q : Nat}
  (hin : s.inLen.toNat ≤ s.params.inCap) (hes : Entries es)
  (hcount : (s.inByte (1 + (s.inByte 0).toNat)).toNat = es.length - 1)
  (hat : entriesAt s (2 + (s.inByte 0).toNat) es q)
  (hcoded : ∀ b ∈ syms, b ∈ es.map Prod.fst)
  (hpay : PayloadAt s q (syms.flatMap fun b => ((es.find? fun e => e.1 == b).map Prod.snd).getD []))
  (hroom : syms.length ≤ s.params.outCap)

include hin hes hcount hat hpay in
/-- PARSE_TABLE of DECOMPRESS reads the table block behind the extension block (42 R236). -/
theorem parseTableBody_extended : parseTableBody s.extended = .ok (s.extended.parsedTable es q) := by
  have hle := entriesAt_le hat
  have hlt := hpay.some
  have hptr := State.extended_rdPtr (s := s) (by omega)
  refine parseTableBody_eq (s := s.extended) hin hptr (show _ < s.inLen.toNat by omega) hes ?_ ?_ hlt.le
  · rw [s.extended_inByte]
    exact hcount
  · rw [Nat.add_right_comm]
    exact entriesAt_congr s.extended_inByte hat

include hes hcoded hpay in
/-- The payload in terms of the table read. -/
theorem payloadAt_parsedTable : PayloadAt (s.extended.parsedTable es q) q
    (syms.flatMap (s.extended.parsedTable es q).code) := by
  have hcode : syms.flatMap (fun b => ((es.find? fun e => e.1 == b).map Prod.snd).getD []) =
      syms.flatMap (s.extended.parsedTable es q).code := by
    refine List.flatMap_congr fun b hb => ?_
    have hentries := State.parsedTable_entriesOf (s := s.extended) (q := q) hes
    have hb := hcoded b hb
    rw [← hentries, map_fst_entriesOf] at hb
    rw [← find_entriesOf hb, hentries]
  rw [← hcode]
  exact payloadAt_congr (t := s.extended.parsedTable es q) s.extended_inByte rfl hpay

include hin hes hcount hat hcoded hpay hroom in
/-- DECOMPRESS of a container of well-formed blocks (42 R236, R240). -/
theorem decompressSteps_container :
    decompressSteps s = .ok ((s.extended.parsedTable es q).unpacked q syms) := by
  have hle := entriesAt_le hat
  have hlt := hpay.some
  have hptr := State.extended_rdPtr (s := s) (by omega)
  have hunpack : unpackBody (s.extended.parsedTable es q) = .ok ((s.extended.parsedTable es q).unpacked q syms) :=
    unpackBody_codes (s := s.extended.parsedTable es q) hin rfl (State.parsedTable_table hes)
      (Nat.mod_eq_of_lt (hlt.trans s.inLen.isLt)) (fun b hb => (codeLenOf_ne_zero_iff rfl hes b).2 (hcoded b hb))
      (payloadAt_parsedTable hes hcoded hpay) ((Nat.zero_add _).trans_le hroom)
  have hmore : s.extended.rdPtr.toNat < s.extended.inLen.toNat := show _ < s.inLen.toNat by omega
  rw [decompressSteps_eq_rest (by omega) hin, decompressRest, if_pos hmore, bodies, bodies_singleton, body, body,
    parseTableBody_extended hin hes hcount hat hpay, Ran.andThen_ok, hunpack]

end

/-- Settles O48: the blocks are read one after another, each where the one before it ends. -/
theorem decompressResult : Obligations.DecompressResult := by
  intro s es syms q hw hin hes hcount hat hcoded hpay hroom
  have hsteps := decompressSteps_container (s := s.start) hin hes hcount (entriesAt_start hat) hcoded
    (payloadAt_start hpay) hroom
  have ⟨hinCap, houtCap⟩ := caps_of_wellFormed hw
  have hlt := hpay.some
  have hk := hpay.header.2
  have hbits := payloadBits_le s q
  have hbytes : (s.start.extended.parsedTable es q).inByte = s.inByte := s.start.extended_inByte
  have hstored := (s.start.extended.parsedTable es q).store_outputStored syms
  have hext (j : Nat) (hj : j < 255) := (s.start.extended.parsedTable es q).unpacked_extByte q syms j hj
  refine ⟨_, exec_of_ok (body_decompress_eq hin hsteps),
    tableOk_congr (fun _ => State.parsedTable_table (s := s.start.extended) (q := q) hes) rfl rfl,
    State.parsedTable_entriesOf (s := s.start.extended) (q := q) hes, ?_, ?_, s.start.extended_extLen, ?_, ?_, rfl,
    ?_, ?_, ?_, ?_, rfl⟩
  · show (0 + syms.length) % 2 ^ 32 = syms.length
    rw [Nat.zero_add]
    exact Nat.mod_eq_of_lt (by omega)
  · intro j hj
    have h := hstored.stored j hj
    rwa [show (s.start.extended.parsedTable es q).outLen.toNat + j = j from Nat.zero_add j] at h
  · intro j hj
    have := byte_toNat_le (s.inByte 0)
    exact (hext j (by omega)).trans (s.start.extended_extByte_of_lt hj)
  · intro j hj hj255
    exact (hext j hj255).trans (s.start.extended_extByte_of_ge hj hj255)
  · exact Nat.mod_eq_of_lt (hlt.trans s.inLen.isLt)
  · show ((s.start.extended.parsedTable es q).inByte q).toNat % 2 ^ 4 = (s.inByte q).toNat
    rw [hbytes]
    exact Nat.mod_eq_of_lt (by omega)
  · show payloadBits (s.start.extended.parsedTable es q) q % 2 ^ 32 = payloadBits s q
    rw [payloadBits_congr hbytes rfl]
    exact Nat.mod_eq_of_lt (by omega)
  · intro a hext hout
    refine (hstored.others a ?_).trans (s.start.extended_ramByte hext)
    rwa [show (s.start.extended.parsedTable es q).outLen.toNat = 0 from rfl]

end Sys2Proof.Machine

/-! PROOFS. The container round trip (42 R239): where IN_BUF holds the blocks COMPRESS wrote, DECOMPRESS finds
well-formed blocks of the same table and the same payload. -/

namespace Sys2Proof.Machine

open Sys2Proof.Safety

/-! ### A code table's entries -/

/-- The entries of a code table are those a container may hold (10 R65, 30 R123). -/
theorem entries_of_table {s : State} (h : Table s) : Entries (entriesOf s) where
  count := by rw [entriesOf, List.length_map, State.orderedSymbols_length]; exact h.count
  lengths e he := by
    obtain ⟨b, hb, rfl⟩ := List.mem_map.1 he
    have hne : (s.codeLenOf b).toNat ≠ 0 := fun h0 => (h.coded b).2 hb (BitVec.eq_of_toNat_eq h0)
    have hle := byte_toNat_le (s.codeLenOf b)
    rw [State.code_length]
    exact ⟨Nat.pos_of_ne_zero hne, hle⟩
  once := by rw [map_fst_entriesOf]; exact h.once
  prefixFree := by
    refine List.pairwise_map.2 (h.once.imp_of_mem fun {b c} hb hc hbc => ?_)
    have hb := (h.coded b).2 hb
    have hc := (h.coded c).2 hc
    exact ⟨h.prefixFree b c hbc hb hc, h.prefixFree c b hbc.symm hc hb⟩

/-! ### Blocks held by IN_BUF -/

/-- IN_BUF holds these bytes from offset `p` on. -/
def HoldsAt (s : State) (p : Nat) (bs : List Byte) : Prop := s.inBytes p bs.length = bs

theorem State.inBytes_getElem (s : State) {p n j : Nat} (hj : j < (s.inBytes p n).length) :
    (s.inBytes p n)[j] = s.inByte (p + j) := by
  simp [State.inBytes]

theorem holdsAt_of_getElem {s : State} {p : Nat} {bs : List Byte}
    (h : ∀ j (hj : j < bs.length), s.inByte (p + j) = bs[j]) : HoldsAt s p bs :=
  List.ext_getElem (s.inBytes_length _ _) fun j hj hj' => (s.inBytes_getElem hj).trans (h j hj')

theorem HoldsAt.getElem {s : State} {p : Nat} {bs : List Byte} (h : HoldsAt s p bs) {j : Nat} (hj : j < bs.length) :
    s.inByte (p + j) = bs[j] := by
  rw [← s.inBytes_getElem (n := bs.length) (by rwa [s.inBytes_length])]
  exact List.getElem_of_eq h _

theorem State.inBytes_add (s : State) (p m n : Nat) : s.inBytes p (m + n) = s.inBytes p m ++ s.inBytes (p + m) n := by
  simp [State.inBytes, List.range_add, Nat.add_assoc]

theorem holdsAt_append {s : State} {p : Nat} {bs cs : List Byte} :
    HoldsAt s p (bs ++ cs) ↔ HoldsAt s p bs ∧ HoldsAt s (p + bs.length) cs := by
  rw [HoldsAt, List.length_append, State.inBytes_add]
  refine ⟨fun h => List.append_inj h (s.inBytes_length _ _), fun ⟨hb, hc⟩ => ?_⟩
  rw [hb, hc]

theorem holdsAt_cons {s : State} {p : Nat} {b : Byte} {bs : List Byte} :
    HoldsAt s p (b :: bs) ↔ s.inByte p = b ∧ HoldsAt s (p + 1) bs := by
  have hone : HoldsAt s p [b] ↔ s.inByte p = b := by simp [HoldsAt, State.inBytes]
  rw [← hone]
  exact holdsAt_append (bs := [b])

/-- The table entries of a block stand where IN_BUF holds them (30 R123). -/
theorem entriesAt_of_holdsAt {s : State} {es : List (Byte × Bits)} {q : Nat}
    (hlen : ∀ e ∈ es, e.2.length ≤ 255)
    (h : HoldsAt s q (es.flatMap fun e => e.1 :: BitVec.ofNat 8 e.2.length :: packMSB e.2)) :
    entriesAt s q es (q + (es.flatMap fun e => e.1 :: BitVec.ofNat 8 e.2.length :: packMSB e.2).length) := by
  induction es generalizing q with
  | nil => rfl
  | cons e rest ih =>
    rw [List.flatMap_cons, holdsAt_append, holdsAt_cons, holdsAt_cons] at h
    obtain ⟨⟨hsym, hcount, hcode⟩, hrest⟩ := h
    have hnext : q + (e.1 :: BitVec.ofNat 8 e.2.length :: packMSB e.2).length = q + 2 + ceil8 e.2.length := by
      rw [List.length_cons, List.length_cons, packMSB_length]
      omega
    have hbyte : (BitVec.ofNat 8 e.2.length).toNat = e.2.length :=
      Nat.mod_eq_of_lt (Nat.lt_succ_of_le (hlen e List.mem_cons_self))
    rw [HoldsAt, packMSB_length] at hcode
    rw [hnext] at hrest
    refine ⟨hsym, by rw [hcount, hbyte], ?_, ?_⟩
    · rw [show q + 2 = q + 1 + 1 from rfl, hcode]
      exact bitsMSB_packMSB_take e.2
    · rw [List.flatMap_cons, List.length_append, ← Nat.add_assoc, hnext]
      exact ih (fun f hf => hlen f (List.mem_cons_of_mem e hf)) hrest

/-- A payload block at the end of the input stands where IN_BUF holds it (30 R124). -/
theorem payloadAt_of_holdsAt {s : State} {p : Nat} {c : Bits} (h : HoldsAt s p (payloadOf c))
    (hend : s.inLen.toNat = p + (payloadOf c).length) : PayloadAt s p c := by
  rw [payloadOf_length] at hend
  obtain ⟨hheader, hdata⟩ := holdsAt_cons.1 h
  rw [HoldsAt, packMSB_length] at hdata
  have hnb : s.inLen.toNat - p - 1 = ceil8 c.length := by omega
  have hk : (s.inByte p).toNat = sigBitsOf c.length := by
    have := sigBitsOf_le c.length
    rw [hheader]
    exact Nat.mod_eq_of_lt (show sigBitsOf c.length < 2 ^ 8 by omega)
  have hbits : payloadBits s p = c.length := by
    rw [payloadBits, hk, hnb, sigBitsOf, ceil8]
    split <;> split <;> omega
  refine ⟨by omega, ?_, fun h0 => ?_, ?_⟩
  · rw [hk, sigBitsOf]
    split <;> omega
  · rw [hnb, ceil8] at h0
    rw [hk, sigBitsOf, if_pos (by omega)]
  · rw [hbits, hnb, hdata]
    exact bitsMSB_packMSB_take c

/-- The blocks of a container that IN_BUF holds to IN_LEN stand one behind the other (30 R120). -/
theorem blocksAt_of_holdsAt {s : State} {l : Byte} {ext : List Byte} {es : List (Byte × Bits)} {c : Bits}
    (hext : ext.length = l.toNat) (hes : Entries es) (h : HoldsAt s 0 (l :: ext ++ blockOf es ++ payloadOf c))
    (hend : s.inLen.toNat = (l :: ext ++ blockOf es ++ payloadOf c).length) :
    s.inByte 0 = l ∧ HoldsAt s 1 ext ∧ (s.inByte (1 + l.toNat)).toNat = es.length - 1 ∧
      ∃ q, entriesAt s (2 + l.toNat) es q ∧ PayloadAt s q c := by
  have hhead : (l :: ext).length = 1 + l.toNat := by rw [List.length_cons, hext, Nat.add_comm]
  rw [List.length_append] at hend
  rw [holdsAt_append, holdsAt_append, Nat.zero_add, Nat.zero_add, hhead] at h
  obtain ⟨⟨hextBlock, htable⟩, hpayload⟩ := h
  obtain ⟨hl, hextBytes⟩ := holdsAt_cons.1 hextBlock
  obtain ⟨hnum, hentries⟩ := holdsAt_cons.1 htable
  have hat := entriesAt_of_holdsAt (fun e he => (hes.lengths e he).2) hentries
  have hq : 1 + l.toNat + 1 + (es.flatMap fun e => e.1 :: BitVec.ofNat 8 e.2.length :: packMSB e.2).length =
      (l :: ext ++ blockOf es).length := by
    rw [List.length_append, hhead, blockOf, List.length_cons]
    omega
  rw [hq, Nat.add_right_comm] at hat
  refine ⟨hl, hextBytes, ?_, _, hat, payloadAt_of_holdsAt hpayload hend⟩
  have := hes.count
  rw [hnum]
  exact Nat.mod_eq_of_lt (show es.length - 1 < 2 ^ 8 by omega)

/-! ### COMPRESS that succeeds -/

section
variable {s t : State} (h : exec .compress s = .next t) (herror : t.error = false)
include h herror

/-- COMPRESS that succeeds passes its own check. -/
theorem inLen_le_of_compress : s.inLen.toNat ≤ s.params.inCap := by
  by_contra hgt
  obtain rfl := Host.Outcome.next.inj ((exec_compress_eq_dropFailed s).symm.trans h)
  rw [State.checkInLen_fail (s := s.start) (Nat.not_le.1 hgt)] at herror
  cases herror

/-- COMPRESS that succeeds has the room for its extension block. -/
theorem extBlock_fits_of_compress : 1 + s.extLen.toNat ≤ s.params.outCap := by
  by_contra hgt
  have hin := inLen_le_of_compress h herror
  obtain ⟨n, u, hfull, -⟩ := compressSteps_lacksRoom_ext (s := s.start) hin (Nat.not_le.1 hgt)
  obtain rfl := Host.Outcome.next.inj ((exec_compress_eq_dropFailed s).symm.trans h)
  rw [State.checkInLen_pass (s := s.start) hin, hfull] at herror
  cases herror

end

/-! ### The round trip -/

/-- What DECOMPRESS of `u` gives back of the input of `s` (42 R239). -/
def GivesBack (s u : State) : Prop :=
  ∃ v, exec .decompress u = .next v ∧ v.error = false ∧ v.outLen = s.inLen ∧
    (∀ j, j < s.inLen.toNat → v.outByte j = s.inByte j) ∧
    v.extLen = s.extLen ∧ ∀ j, j < s.extLen.toNat → v.extByte j = s.extByte j

section
variable {s t u : State} (hw : s.params.wellFormed = true) (h : exec .compress s = .next t) (herror : t.error = false)
  (hlen : u.inLen = t.outLen) (hin : u.inLen.toNat ≤ u.params.inCap)
  (hbytes : ∀ j, j < t.outLen.toNat → u.inByte j = t.outByte j)
include hw h herror hlen hin hbytes

/-- The round trip of an empty input (42 R232, R238). -/
theorem givesBack_of_empty (hempty : s.inLen = 0) : GivesBack s u := by
  obtain ⟨t', h', hcount, hext, houtLen, -⟩ := compressEmptyInput s hw hempty (extBlock_fits_of_compress h herror)
  obtain rfl := Host.Outcome.next.inj (h.symm.trans h')
  have hcount' : u.inByte 0 = s.extLen := (hbytes 0 (by omega)).trans hcount
  obtain ⟨v, hv, hextLen, hextBytes, -, -, hframe⟩ :=
    decompressEmptyFile u hin (by rw [hlen, houtLen, hcount'])
  have houtLen' : v.outLen = 0 := congrArg State.outLen hframe
  refine ⟨v, hv, congrArg State.error hframe, houtLen'.trans hempty.symm, fun j hj => ?_, hextLen.trans hcount',
    fun j hj => ?_⟩
  · rw [hempty] at hj
    exact absurd hj (Nat.not_lt_zero j)
  · rw [hextBytes j (by rwa [hcount']), hbytes (1 + j) (by omega), hext j hj]

/-- The round trip of a non-empty input (42 R230, R236). -/
theorem givesBack_of_pos (hwu : u.params.wellFormed = true) (hroom : s.inLen.toNat ≤ u.params.outCap)
    (hpos : 0 < s.inLen.toNat) : GivesBack s u := by
  obtain ⟨t', h', -, -, hok⟩ := compressResult s hw hpos (inLen_le_of_compress h herror)
  obtain rfl := Host.Outcome.next.inj (h.symm.trans h')
  obtain ⟨out, hout, houtLen, hstored, -, -, -, -, -, htable, -, hcoded, -⟩ := hok herror
  subst hout
  have hheld := holdsAt_of_getElem (s := u) (p := 0) fun j hj => by
    rw [Nat.zero_add, hbytes j (houtLen ▸ hj), hstored j hj]
  have hes := entries_of_table htable
  obtain ⟨hcount, hext, hnum, q, hat, hpay⟩ :=
    blocksAt_of_holdsAt (s.extBytes_length _) hes hheld (hlen ▸ houtLen)
  have hmem : ∀ b ∈ s.inBytes 0 s.inLen.toNat, b ∈ t.orderedSymbols := fun b hb =>
    (htable.coded b).1 ((hcoded b).2 hb)
  have hcodes := List.flatMap_congr fun b hb => find_entriesOf (hmem b hb)
  rw [← hcount] at hnum hat
  rw [← hcodes] at hpay
  obtain ⟨v, hv, -, -, hvLen, hvBytes, hvExtLen, hvExt, -, -, -, -, -, -, hframe⟩ :=
    decompressResult u (entriesOf t) (s.inBytes 0 s.inLen.toNat) q hwu hin hes hnum hat
      (by rwa [map_fst_entriesOf]) hpay (by rwa [s.inBytes_length])
  rw [s.inBytes_length] at hvLen
  refine ⟨v, hv, congrArg State.error hframe, BitVec.eq_of_toNat_eq hvLen, fun j hj => ?_, hvExtLen.trans hcount,
    fun j hj => ?_⟩
  · rw [hvBytes j (by rwa [s.inBytes_length]), s.inBytes_getElem, Nat.zero_add]
  · have hj' : j < (s.extBytes s.extLen.toNat).length := by rwa [s.extBytes_length]
    rw [hvExt j (by rwa [hcount]), hext.getElem hj']
    simp [State.extBytes]

end

/-- Settles O49: the container of COMPRESS is one DECOMPRESS reads, whether the input is empty or not. -/
theorem containerRoundTrip : Obligations.ContainerRoundTrip := by
  intro s t u hw hwu h herror hlen hin hroom hbytes
  rcases Nat.eq_zero_or_pos s.inLen.toNat with h0 | hpos
  · exact givesBack_of_empty hw h herror hlen hin hbytes (BitVec.eq_of_toNat_eq h0)
  · exact givesBack_of_pos hw h herror hlen hin hbytes hwu hroom hpos

end Sys2Proof.Machine

/-! PROOFS. The control commands (43 R250–R253): what CLEAR leaves in the tables, and that NOP and CLEAR end well. -/

namespace Sys2Proof.Machine

open Sys2Proof.Safety

/-! ### The cleared tables -/

@[simp] theorem State.cleared_freqOf (s : State) (b : Byte) : s.cleared.freqOf b = 0 :=
  Vector.getElem_replicate b.isLt

@[simp] theorem State.cleared_codeLenOf (s : State) (b : Byte) : s.cleared.codeLenOf b = 0 :=
  Vector.getElem_replicate b.isLt

@[simp] theorem State.cleared_codeBitsOf (s : State) (b : Byte) : s.cleared.codeBitsOf b = 0 :=
  Vector.getElem_replicate b.isLt

/-- A vector of one value reads as it at every index, where the default is that value too. -/
theorem getD_replicate_self {α : Type} (n i : Nat) (a : α) : (Vector.replicate n a).getD i a = a := by
  rcases Nat.lt_or_ge i n with hi | hi
  · simp [Vector.getD, hi]
  · exact getD_of_ge _ hi

@[simp] theorem State.cleared_orderAt (s : State) (i : Nat) : s.cleared.orderAt i = 0 :=
  getD_replicate_self 256 i 0

@[simp] theorem State.cleared_nodeAt (s : State) (n : Nat) : nodeAt s.cleared.nodes n = Node.empty :=
  getD_replicate_self 511 n Node.empty

/-! ### NOP and CLEAR -/

/-- Settles O21: the body of NOP leaves the state as the start made it. -/
theorem nopResult : Obligations.NopResult := fun s => exec_of_ok (i := .nop) (u := s.start) rfl

/-- Settles O22: the body of CLEAR ends well with the cleared state, whose tables read as 0. -/
theorem clearResult : Obligations.ClearResult := fun s =>
  ⟨s.start.cleared.finish, exec_of_ok rfl, rfl,
    fun b => ⟨s.start.cleared_freqOf b, s.start.cleared_codeLenOf b, s.start.cleared_codeBitsOf b⟩,
    fun i _ => s.start.cleared_orderAt i, fun n _ => s.start.cleared_nodeAt n⟩

end Sys2Proof.Machine

/-! PROOFS. Exceptions (60): an idle CORE, acceptance and the interrupt output, the checks a command makes first, the
blocks that do not fit, and how every command ends. -/

namespace Sys2Proof.Machine

open Sys2Proof.Safety

/-! ### An idle CORE, acceptance and IRQ -/

theorem coreTurn_idle {s : State} (h : s.phase = .idle) : coreTurn s = .next s := by rw [coreTurn, h]

/-- Settles O5: the step is the turn of a CORE that is idle too. -/
theorem idleCoreKeepsState : Obligations.IdleCoreKeepsState := fun _ _ hidle hturn =>
  (step_coreTurn hturn).trans (coreTurn_idle ((phase_of_coreTurn hturn).trans hidle))

/-- Settles O6: a served write to CMD is `State.accept`. -/
theorem cmdWriteAccepted : Obligations.CmdWriteAccepted := by
  intro s rest w hidle hs
  rw [step_write_idle (off := regOffset .cmd) hidle hs (regOffset_lt_windowSize .cmd) (accessOk_regOffset .cmd),
    State.writeIdle_reg]
  rfl

/-- IRQ is up exactly when an enabled STATUS bit is set (60 R270). -/
theorem State.irq_iff (s : State) : s.irq = true ↔
    (s.done = true ∧ s.irqEn.getLsbD 0 = true) ∨ (s.error = true ∧ s.irqEn.getLsbD 1 = true) ∨
      (s.overrun = true ∧ s.irqEn.getLsbD 2 = true) := by
  simp only [State.irq, Bool.or_eq_true, Bool.and_eq_true, or_assoc]

/-- With DONE and ERROR 0 only OVERRUN can hold IRQ up. -/
theorem State.irq_of_clear {s : State} (hd : s.done = false) (he : s.error = false) :
    s.irq = (s.overrun && s.irqEn.getLsbD 2) := by
  simp only [State.irq, hd, he, Bool.false_and, Bool.false_or]

/-- The full acknowledgement clears DONE, ERROR and OVERRUN (10 R38–R40, 60 R274). -/
theorem State.writeStatus_all (s : State) : (s.writeStatus 0x0000000E).done = false ∧
    (s.writeStatus 0x0000000E).error = false ∧ (s.writeStatus 0x0000000E).overrun = false :=
  ⟨Bool.and_false _, Bool.and_false _, Bool.and_false _⟩

/-- Settles O20: IRQ reads three flags; the acknowledgement clears all of them, acceptance all but OVERRUN. -/
theorem irqFollowsStatus : Obligations.IrqFollowsStatus := by
  intro s
  obtain ⟨hd, he, ho⟩ := s.writeStatus_all
  refine ⟨s.irq_iff, ?_, fun w => State.irq_of_clear (s := s.accept w) rfl rfl⟩
  rw [State.irq_of_clear hd he, ho, Bool.false_and]

/-! ### The checks that come first -/

/-- The primitives that read IN_BUF check IN_LEN before all else (60 R264). -/
theorem body_inLenRange {s : State} (h : s.params.inCap < s.inLen.toNat) (i : Instr)
    (hi : i ∈ [Instr.count, .pack, .parseExt, .parseTable, .unpack]) : body i s = .raised .inLenRange s.inLen s := by
  cases i with
  | count | pack | parseExt | parseTable | unpack =>
    simp only [body, countBody, packBody, parseExtBody, parseTableBody, unpackBody, State.checkInLen_fail h]
  | nop | clear | build | gencode | emitExt | emitTable | compress | decompress => exact absurd hi (by decide)

/-- So do the whole-run commands, which drop the output then too (42 R233, log 9). -/
theorem body_wholeRun_inLenRange {s : State} (h : s.params.inCap < s.inLen.toNat) (i : Instr)
    (hi : i ∈ [Instr.compress, .decompress]) : body i s = .raised .inLenRange s.inLen { s with outLen := 0 } := by
  cases i with
  | compress | decompress =>
    simp only [body, compressBody, decompressBody, State.checkInLen_fail h, Ran.dropOutput_raised]
  | nop | clear | count | build | gencode | emitExt | emitTable | pack | parseExt | parseTable | unpack =>
    exact absurd hi (by decide)

section
variable {s : State} (hin : s.inLen.toNat ≤ s.params.inCap)
include hin

/-- The primitives that read IN_BUF from RD_PTR on check RD_PTR next (60 R264). -/
theorem body_rdPtrRange (h : s.inLen.toNat < s.rdPtr.toNat) (i : Instr)
    (hi : i ∈ [Instr.parseExt, .parseTable, .unpack]) : body i s = .raised .rdPtrRange s.rdPtr s := by
  cases i with
  | parseExt | parseTable | unpack =>
    simp only [body, parseExtBody, parseTableBody, unpackBody, State.checkInLen_pass hin, State.checkRdPtr_fail h]
  | nop | clear | count | build | gencode | emitExt | emitTable | pack | compress | decompress =>
    exact absurd hi (by decide)

/-- PACK checks TABLE_VALID after IN_LEN (60 R265). -/
theorem packBody_noTable (h : s.tableValid = false) : packBody s = .raised .noTable 0 s := by
  rw [packBody, State.checkInLen_pass hin, State.checkTable_fail h]

/-- UNPACK checks TABLE_VALID after IN_LEN and RD_PTR (60 R265). -/
theorem unpackBody_noTable (hptr : s.rdPtr.toNat ≤ s.inLen.toNat) (h : s.tableValid = false) :
    unpackBody s = .raised .noTable 0 s := by
  rw [unpackBody, State.checkInLen_pass hin, State.checkRdPtr_pass hptr, State.checkTable_fail h]

end

theorem gencodeBody_noTree {s : State} (h : s.treeValid = false) : gencodeBody s = .raised .noTree 0 s :=
  State.checkTree_fail h

theorem emitTableBody_noTable {s : State} (h : s.tableValid = false) : emitTableBody s = .raised .noTable 0 s :=
  State.checkTable_fail h

/-- Settles O23: each check is the first of the body that fails, and nothing is written before it. -/
theorem checksComeFirst : Obligations.ChecksComeFirst := by
  intro s
  refine ⟨fun h => ⟨fun i hi => ?_, fun i hi => ?_⟩, fun hin h i hi => ?_, fun h => ?_, fun h => ?_, fun h hin => ?_,
    fun h hin hptr => ?_⟩
  · exact exec_of_raised (body_inLenRange (s := s.start) h i hi)
  · rw [exec_eq_body, body_wholeRun_inLenRange (s := s.start) h i hi]; rfl
  · exact exec_of_raised (body_rdPtrRange (s := s.start) hin h i hi)
  · exact exec_of_raised (i := .gencode) (gencodeBody_noTree (s := s.start) h)
  · exact exec_of_raised (i := .emitTable) (emitTableBody_noTable (s := s.start) h)
  · exact exec_of_raised (i := .pack) (packBody_noTable (s := s.start) hin h)
  · exact exec_of_raised (i := .unpack) (unpackBody_noTable (s := s.start) hin hptr h)

/-! ### Blocks that do not fit -/

/-- EMIT_EXT checks the room for the extension block first (60 R268). -/
theorem emitExtBody_overflow {s : State} (h : s.params.outCap < s.outLen.toNat + (1 + s.extLen.toNat)) :
    emitExtBody s = .raised .outOverflow (BitVec.ofNat 32 (s.outLen.toNat + (1 + s.extLen.toNat))) s :=
  State.checkRoom_fail h

/-- EMIT_TABLE checks the room for the table block before it writes (60 R268). -/
theorem emitTableBody_overflow {s : State} (hv : s.tableValid = true)
    (h : s.params.outCap < s.outLen.toNat + s.tableSize) :
    emitTableBody s = .raised .outOverflow (BitVec.ofNat 32 (s.outLen.toNat + s.tableSize)) s :=
  (emitTableBody_eq hv).trans (State.checkRoom_fail h)

/-- EMIT_TABLE counts the bytes of the table block of the code table (42 R213). -/
theorem tableSize_eq_blockOf_length {s : State} (ht : Table s) : s.tableSize = (blockOf (entriesOf s)).length := by
  rw [← tableBlock_eq_blockOf ht, State.tableBlock_length]

/-- Settles O34: the size checked is the length of the block, and the check comes before the block is emitted. -/
theorem emitOverflow : Obligations.EmitOverflow := by
  intro s
  refine ⟨fun h => ?_, fun hv ht h => ?_⟩
  · rw [Nat.add_assoc] at h ⊢
    exact exec_of_raised (i := .emitExt) (emitExtBody_overflow (s := s.start) h)
  · rw [← tableSize_eq_blockOf_length ht] at h ⊢
    exact exec_of_raised (i := .emitTable) (emitTableBody_overflow (s := s.start) hv h)

/-! ### How every command ends -/

/-- The report of a command's end: ERROR comes exactly with a code, and a success has no ERR_INFO (60 R260–R262). -/
theorem Ran.complete_report {s : State} {r : Ran} (h : r.Leaves (Framed s.start)) :
    (r.complete.error = true ↔ r.complete.errCode ≠ 0) ∧ (r.complete.error = false → r.complete.errInfo = 0) := by
  cases r with
  | ok t =>
    have herror : t.error = false := h.error_eq_false
    have hcode : t.errCode = 0 := congrArg Control.errCode h.control
    have hinfo : t.errInfo = 0 := congrArg Control.errInfo h.control
    simp [herror, hcode, hinfo]
  | raised e info t => exact ⟨iff_of_true rfl e.listed.2, fun he => absurd he.symm Bool.false_ne_true⟩

/-- Settles O51: a command ends as its body does, and the body leaves the report as the start made it. -/
theorem everyCommandEnds : Obligations.EveryCommandEnds := by
  intro i s
  have hframed := body_framed i s.start
  obtain ⟨hdone, hphase⟩ := (body i s.start).complete_done
  obtain ⟨hcoded, hinfo⟩ := Ran.complete_report hframed
  exact ⟨_, exec_eq_body i s, by rw [State.busy, hphase], hdone, (Ran.complete_errorOk hframed).listed, hcoded, hinfo⟩

end Sys2Proof.Machine

/-! PROOFS. The busy window and the reset sequence (70 R290, R292, R301, R302): the accepted word's command runs in one
step, and what reads and writes do meanwhile. -/

namespace Sys2Proof.Machine

open Sys2Proof.Safety

/-! ### The command's step -/

theorem coreTurn_running {s : State} {w : Word} {i : Instr} (hrun : s.phase = .running w) (hd : decode w = .ok i) :
    coreTurn s = exec i s := by
  simp only [coreTurn, hrun, hd]

/-- Settles O3: the step is the turn of a CORE that runs the same word. -/
theorem stepRunsCommand : Obligations.StepRunsCommand := fun _ _ _ _ hrun hd _ hturn =>
  (step_coreTurn hturn).trans (coreTurn_running ((phase_of_coreTurn hturn).trans hrun) hd)

/-! ### Writes in the busy window -/

/-- A register is found at its own offset only (10 R33). -/
theorem regAt_eq_some_iff {off : Nat} {r : Reg} : regAt off = some r ↔ off = regOffset r where
  mp h := (beq_iff_eq.1 (List.find?_some (p := fun q => regOffset q == off) h)).symm
  mpr h := h ▸ regAt_regOffset r

theorem State.writeRunning_status (s : State) (v : Word) : s.writeRunning (regOffset .status) v = s.writeStatus v := by
  simp only [State.writeRunning, regAt_regOffset]

theorem State.writeRunning_irqEn (s : State) (v : Word) :
    s.writeRunning (regOffset .irqEn) v = { s with irqEn := v.setWidth 3 } := by
  simp only [State.writeRunning, regAt_regOffset]

/-- A write to neither STATUS nor IRQ_EN is dropped (10 R40). -/
theorem State.writeRunning_dropped (s : State) {off : Nat} (hstatus : off ≠ regOffset .status)
    (hirq : off ≠ regOffset .irqEn) (v : Word) : s.writeRunning off v = { s with overrun := true } := by
  unfold State.writeRunning
  split
  · next hreg => exact absurd (regAt_eq_some_iff.1 hreg) hstatus
  · next hreg => exact absurd (regAt_eq_some_iff.1 hreg) hirq
  · rfl

/-- With DONE and ERROR 0 a write to STATUS can clear OVERRUN only. -/
theorem State.writeStatus_of_clear {s : State} (hd : s.done = false) (he : s.error = false) (v : Word) :
    s.writeStatus v = { s with overrun := s.overrun && !v.getLsbD 3 } := by
  simp only [State.writeStatus, hd, he, Bool.false_and]

section
variable {s : State} {rest : List Event} {off : Nat} {n : Width} {w v : Word}

theorem step_write_running (hrun : s.phase = .running w)
    (hs : s.agenda = .access (.write (s.params.base + off) n v) :: rest) (hoff : off < windowSize)
    (hok : accessOk off n = true) :
    step s = .next { { s with agenda := rest }.writeRunning off v with response := .written } := by
  rw [step_write hs hoff hok, State.writeValue, hrun]

theorem step_write_resetting (hreset : s.phase = .resetting)
    (hs : s.agenda = .access (.write (s.params.base + off) n v) :: rest) (hoff : off < windowSize)
    (hok : accessOk off n = true) : step s = .next { s with agenda := rest, response := .written } := by
  rw [step_write hs hoff hok, State.writeValue, hreset]

end

/-- Settles O7: STATUS, IRQ_EN and the dropped writes; while BUSY is 1 DONE and ERROR are 0. -/
theorem busyWrites : Obligations.BusyWrites := by
  intro s rest w v off n hrun hbusy hoff hok hs
  obtain ⟨hdone, herror, -⟩ := hbusy (by rw [State.busy, hrun])
  rw [step_write_running hrun hs hoff hok]
  refine ⟨fun hstatus hirq => ?_, fun hstatus => ?_, fun hirq => ?_⟩
  · rw [State.writeRunning_dropped _ hstatus hirq]
  · obtain rfl : off = regOffset .status := hstatus
    rw [State.writeRunning_status, State.writeStatus_of_clear (s := { s with agenda := rest }) hdone herror]
  · obtain rfl : off = regOffset .irqEn := hirq
    rw [State.writeRunning_irqEn]

/-! ### Reads of registers while BUSY is 1 -/

section
variable {s : State} {rest : List Event} {r : Reg} {w : Word}

theorem step_readReg_running (hrun : s.phase = .running w)
    (hs : s.agenda = .access (.read (s.params.base + regOffset r) .four) :: rest) :
    step s = .next { s with
      agenda := rest, response := .data (s.readRegRunning r (Config.freeWord s.draws)), draws := s.draws + 1 } := by
  rw [step_read hs (regOffset_lt_windowSize r) (accessOk_regOffset r), State.readValue, hrun]
  simp only [State.readRunning, regAt_regOffset]

theorem step_readReg_resetting (hreset : s.phase = .resetting)
    (hs : s.agenda = .access (.read (s.params.base + regOffset r) .four) :: rest) :
    step s = .next { s with
      agenda := rest, response := .data (s.readRegResetting r (Config.freeWord s.draws)), draws := s.draws + 1 } := by
  rw [step_read hs (regOffset_lt_windowSize r) (accessOk_regOffset r), State.readValue, hreset]
  simp only [State.readResetting, regAt_regOffset]

end

/-- Two adjacent fields that are 0 make one field that is 0. -/
theorem extract_eq_zero {k i m n : Nat} {x : BitVec k} (hlow : x.extractLsb' i m = 0)
    (hhigh : x.extractLsb' (i + m) n = 0) : x.extractLsb' i (n + m) = 0 := by
  rw [← BitVec.extractLsb'_append_extractLsb'_eq_extractLsb' rfl, hlow, hhigh]
  exact BitVec.zero_append_zero

/-- STATUS in the busy window: bits 15:4 are three fields that are 0 (70 R302). -/
theorem State.statusWordRunning_fields (s : State) (free : Word) :
    (s.statusWordRunning free).getLsbD 0 = true ∧ (s.statusWordRunning free).getLsbD 1 = false ∧
    (s.statusWordRunning free).getLsbD 2 = false ∧ (s.statusWordRunning free).getLsbD 3 = s.overrun ∧
    (s.statusWordRunning free).extractLsb' 4 12 = 0 ∧ (s.statusWordRunning free).extractLsb' 18 14 = 0 := by
  obtain ⟨hbusy, hdone, herror, hoverrun, hcode, hsub, hzero, -, -, htop⟩ :=
    packStatus_fields (free.getLsbD 17) (free.getLsbD 16) 0 0 s.overrun false false true
  exact ⟨hbusy, hdone, herror, hoverrun, extract_eq_zero (m := 8) (n := 4) (extract_eq_zero hcode hsub) hzero, htop⟩

/-- Settles O8: the registers 70 R302 lists, each by the word it reads as. -/
theorem busyReads : Obligations.BusyReads := by
  intro s rest w r hrun hs
  refine ⟨_, step_readReg_running hrun hs, ?_, ?_, ?_, ?_, ?_⟩ <;> rintro rfl
  case refine_5 => exact s.statusWordRunning_fields _
  all_goals rfl

/-! ### The reset sequence -/

theorem step_reset {s : State} {rest : List Event} (hs : s.agenda = .reset :: rest) :
    step s = .next { s with agenda := rest }.assertReset := by
  simp only [step, nextEvent, hs]

theorem coreTurn_resetting {s : State} (h : s.phase = .resetting) : coreTurn s = .next s.endReset := by
  rw [coreTurn, h]

theorem statusWordResetting_busy (free : Word) : (statusWordResetting free).getLsbD 0 = true := by
  simp [statusWordResetting]

/-- Settles O9: the assertion, the accesses during the sequence, and the CORE's turn that ends it. -/
theorem resetSequence : Obligations.ResetSequence := by
  refine ⟨fun s rest hs => ⟨_, step_reset hs, rfl, rfl, rfl⟩,
    fun s rest off n v hreset hoff hok hs => step_write_resetting hreset hs hoff hok,
    fun s rest r hreset hs => ⟨_, step_readReg_resetting hreset hs, ?_, ?_, ?_, ?_⟩,
    fun s s' hreset hturn =>
      (step_coreTurn hturn).trans (coreTurn_resetting ((phase_of_coreTurn hturn).trans hreset))⟩ <;> rintro rfl
  case refine_4 => exact statusWordResetting_busy _
  all_goals rfl

end Sys2Proof.Machine
